-- ==== Sys2Proof/Word.lean ====
section
/-! DEFINITION. The bit-vector types of the block (00_scope.md section 5) and the values it outputs:
records (R26), signals and events (R98). -/

namespace Sys2Proof

/-- A byte, the addressable unit of every byte space (R41). -/
abbrev Byte := BitVec 8

/-- `u16`: `length`, `crc16`, the CRC register, `sync_time` raw (R46). -/
abbrev U16 := BitVec 16

/-- `u32`, and an `f32` field as the bit pattern it is (R128). -/
abbrev U32 := BitVec 32

/-- DecodedRecord (R26), in the hardware view: 20 fields, 600 bits, named as the output ports of R141.
Every `f32` field is its 32-bit pattern (R128); `temperature` is the raw byte (R124); `syncTimeRaw` is
the raw `u16` (R123). -/
structure DecodedRecord where
  syncTimeRaw : U16
  temperature : Byte
  pressure : U32
  systemTimeMs : U32
  acc0 : U32
  acc1 : U32
  acc2 : U32
  gyr0 : U32
  gyr1 : U32
  gyr2 : U32
  mag0 : U32
  mag1 : U32
  mag2 : U32
  roll : U32
  pitch : U32
  yaw : U32
  quat0 : U32
  quat1 : U32
  quat2 : U32
  quat3 : U32
deriving DecidableEq, Repr

/-- A signal: a condition that produces an event (00_scope.md section 8, R171). It carries no data
(R98, D15). -/
inductive Signal where
  | crcMismatch
  | unknownFrameType
  | payloadTooShort
deriving DecidableEq, Repr

/-- One element of the event list `ev` (R98): a record, or a bare signal. -/
inductive Event where
  | record (r : DecodedRecord)
  | signal (x : Signal)
deriving DecidableEq, Repr

end Sys2Proof
end

