-- ==== Sys2Proof/Config.lean ====
section
/-! DEFINITION. What the spec leaves open: the parameter EMPTY_PAYLOAD_CLASS (R8) at its decided value, and the free
values of the registers that RESET.serial leaves unspecified (R144, R158). The constants of R7, which are
fixed and not configurable, are in Machine/Constants.lean. BUF_CAPACITY (R8, D5) is unbounded, so it has no
constant here: `State.buf` is a list of any length. -/

namespace Sys2Proof.Config

/-- EMPTY_PAYLOAD_CLASS (R8, R136): the signal of a validated frame with `length = 0`. DESIGN CHOICE of the
spec itself (D6), log 11. -/
def emptyPayloadClass : Signal := .unknownFrameType

/-- FREE VALUE (R144, R158, U7): what a 16-bit register holds after RESET.serial, by draw number. It has no
body a proof could see. Log 9. -/
opaque freeU16 : Nat → U16

/-- FREE VALUE (R144, R158, U7): what a byte of the capture store holds after RESET.serial, by draw number.
Log 9. -/
opaque freeByte : Nat → Byte

end Sys2Proof.Config
end

