-- ==== Sys2Proof/Machine/Constants.lean ====
section
/-! DEFINITION. The hardwired constants of R7. -/

namespace Sys2Proof.Machine

/-- SYNC1, frame offset 0. -/
def sync1 : Byte := 0x5A

/-- SYNC2, frame offset 1. -/
def sync2 : Byte := 0xA5

/-- HDR_SIZE: sync1, sync2, length (2), crc16 (2). -/
def hdrSize : Nat := 6

/-- LEN_OFF: frame offset of `length`. -/
def lenOff : Nat := 2

/-- CRC_OFF: frame offset of `crc16`. -/
def crcOff : Nat := 4

/-- MAX_LEN: the largest `length`, 2^16 - 1. -/
def maxLen : Nat := 65535

/-- CRC_POLY: XOR-ed in when a 1 is shifted out of the CRC register. -/
def crcPoly : U16 := 0x1021

/-- CRC_SEED_VALIDATE: the seed the Validator uses. -/
def crcSeedValidate : U16 := 0x0000

/-- The CRC register after the sync pair from seed 0, loaded on a sync match (R111, R147). -/
def crcAfterSync : U16 := 0x043B

/-- TAG_HI91: the one recognised type tag. -/
def tagHi91 : Byte := 0x91

/-- HI91_MIN_LEN: the least payload length of a decodable HI91 frame. -/
def hi91MinLen : Nat := 76

end Sys2Proof.Machine
end

