-- ==== Sys2Proof/Machine/Crc.lean ====
section
/-! DEFINITION. The CRC engine's pure functions (40_crc_engine.md). -/

namespace Sys2Proof.Machine

/-- ROUND (R82): shift left by one; if bit 15 before the shift was set, XOR the polynomial. -/
def crcRound (c : U16) : U16 :=
  if c.msb then (c <<< 1) ^^^ crcPoly else c <<< 1

/-- `n` rounds one after the other. -/
def crcRounds : Nat → U16 → U16
  | 0, c => c
  | n + 1, c => crcRounds n (crcRound c)

/-- BYTESTEP (R81): XOR the byte into bits 15:8, then 8 rounds. -/
def crcByteStep (crc : U16) (b : Byte) : U16 :=
  crcRounds 8 (crc ^^^ (b ++ (0 : Byte)))

/-- CRC16 (R80): the bytes in order, from the seed; no reflection, no final XOR (R84). -/
def crc16 (seed : U16) (bytes : List Byte) : U16 :=
  bytes.foldl crcByteStep seed

end Sys2Proof.Machine
end

