-- ==== Sys2Proof/Machine/Operands.lean ====
section
/-! DEFINITION. Every operand form of the spec: single bytes, little-endian reads (R43, R67), the header fields of a
frame (R60), its payload (R42, R64), and the eleven field forms of a HI91 payload (R66). -/

namespace Sys2Proof.Machine

/-- `s[o]`. No rule reads outside the sequence (R47); out of range it reads as 0, a value no result depends on (log 16). -/
def byteAt (s : List Byte) (o : Nat) : Byte := s.getD o 0

/-- `LE16(s, o)` (R43): the byte at the lower offset is the less significant. -/
def le16 (s : List Byte) (o : Nat) : U16 := byteAt s (o + 1) ++ byteAt s o

/-- `LE32(s, o)` (R43): `s[o]` supplies bits 7:0 and `s[o+3]` bits 31:24. -/
def le32 (s : List Byte) (o : Nat) : U32 :=
  byteAt s (o + 3) ++ byteAt s (o + 2) ++ byteAt s (o + 1) ++ byteAt s o

/-- `sval8` (R67, R124): the signed value of a byte, two's complement (PRESUMED by the spec, D11, log 17). -/
def sval8 (b : Byte) : Int := if b.toNat < 128 then (b.toNat : Int) else (b.toNat : Int) - 256

/-- The sync pair at offsets 0 and 1 (R61): two byte comparisons. -/
abbrev SyncAtHead (s : List Byte) : Prop := byteAt s 0 = sync1 ∧ byteAt s 1 = sync2

/-- `length` (R62), read at frame offset 2. -/
def frameLength (s : List Byte) : Nat := (le16 s lenOff).toNat

/-- `total = 6 + length` (R62, R93), without wrap-around (D23). -/
def frameTotal (s : List Byte) : Nat := hdrSize + frameLength s

/-- The transmitted CRC (R63, R112). -/
def frameCrc (s : List Byte) : U16 := le16 s crcOff

/-- The payload: frame offsets 6 and up (R42). -/
def framePayload (frame : List Byte) : List Byte := frame.drop hdrSize

/-- The bytes the CRC covers (R111): offsets 0 to 3, then 6 and up; the CRC field is skipped. -/
def coveredBytes (frame : List Byte) : List Byte := frame.take crcOff ++ frame.drop hdrSize

/-- A complete candidate frame, the operand of VALIDATE (R110): at least 6 bytes, the sync pair, and
exactly `6 + length` bytes. -/
abbrev CandidateFrame (f : List Byte) : Prop :=
  hdrSize ≤ f.length ∧ SyncAtHead f ∧ f.length = frameTotal f

/-- A payload that DECODE_HI91 takes (R122): tag 0x91 and at least 76 bytes (and at most MAX_LEN, R7). -/
abbrev Hi91Payload (p : List Byte) : Prop :=
  byteAt p 0 = tagHi91 ∧ hi91MinLen ≤ p.length ∧ p.length ≤ maxLen

/-- A HI91 payload that is too short (R121): tag 0x91 and 1 to 75 bytes. -/
abbrev Hi91ShortPayload (p : List Byte) : Prop :=
  byteAt p 0 = tagHi91 ∧ 1 ≤ p.length ∧ p.length < hi91MinLen

/-- A payload with another tag (R135): at least one byte, and the first is not 0x91. -/
abbrev UnknownPayload (p : List Byte) : Prop :=
  byteAt p 0 ≠ tagHi91 ∧ 1 ≤ p.length ∧ p.length ≤ maxLen

/-! ## The field forms of a HI91 payload (R66) -/

/-- `sync_time` raw, u16 LE at payload offset 1 (R123). -/
def fieldSyncTime (p : List Byte) : U16 := le16 p 1

/-- `temperature`, the byte at payload offset 3 (R124). -/
def fieldTemperature (p : List Byte) : Byte := byteAt p 3

/-- `pressure`, f32 LE at payload offset 4 (R125). -/
def fieldPressure (p : List Byte) : U32 := le32 p 4

/-- `system_time_ms`, u32 LE at payload offset 8 (R126). -/
def fieldSystemTimeMs (p : List Byte) : U32 := le32 p 8

/-- `acc[i]`, f32 LE at payload offset `12 + 4*i` (R127). -/
def fieldAcc (p : List Byte) (i : Nat) : U32 := le32 p (12 + 4 * i)

/-- `gyr[i]`, f32 LE at payload offset `24 + 4*i` (R129). -/
def fieldGyr (p : List Byte) (i : Nat) : U32 := le32 p (24 + 4 * i)

/-- `mag[i]`, f32 LE at payload offset `36 + 4*i` (R130). -/
def fieldMag (p : List Byte) (i : Nat) : U32 := le32 p (36 + 4 * i)

/-- `roll`, f32 LE at payload offset 48 (R131). -/
def fieldRoll (p : List Byte) : U32 := le32 p 48

/-- `pitch`, f32 LE at payload offset 52 (R132). -/
def fieldPitch (p : List Byte) : U32 := le32 p 52

/-- `yaw`, f32 LE at payload offset 56 (R133). -/
def fieldYaw (p : List Byte) : U32 := le32 p 56

/-- `quat[i]`, f32 LE at payload offset `60 + 4*i` (R134). -/
def fieldQuat (p : List Byte) (i : Nat) : U32 := le32 p (60 + 4 * i)

/-- DECODE_HI91 (R122), the field multiplexer: all fields at once from the same payload. -/
def decodeHi91 (p : List Byte) : DecodedRecord where
  syncTimeRaw := fieldSyncTime p
  temperature := fieldTemperature p
  pressure := fieldPressure p
  systemTimeMs := fieldSystemTimeMs p
  acc0 := fieldAcc p 0
  acc1 := fieldAcc p 1
  acc2 := fieldAcc p 2
  gyr0 := fieldGyr p 0
  gyr1 := fieldGyr p 1
  gyr2 := fieldGyr p 2
  mag0 := fieldMag p 0
  mag1 := fieldMag p 1
  mag2 := fieldMag p 2
  roll := fieldRoll p
  pitch := fieldPitch p
  yaw := fieldYaw p
  quat0 := fieldQuat p 0
  quat1 := fieldQuat p 1
  quat2 := fieldQuat p 2
  quat3 := fieldQuat p 3

/-- `sync_time` in seconds, the exact rational `raw / 1000` (R123, D12). -/
def syncTimeSeconds (r : DecodedRecord) : Rat := (r.syncTimeRaw.toNat : Rat) / 1000

/-- `temperature` in degrees Celsius (R124). -/
def temperatureCelsius (r : DecodedRecord) : Int := sval8 r.temperature

end Sys2Proof.Machine
end

