-- ==== Sys2Proof/Machine/Selection.lean ====
section
/-! DEFINITION. The three maps of R68 that select a row by the bytes: the stream map on the head of `buf`, the frame map on a
candidate frame, the tag map on a validated payload. -/

namespace Sys2Proof.Machine

/-- The four cases of SCAN (R92). -/
inductive ScanCase where
  | scanEnd
  | wait
  | extract
  | resync
deriving DecidableEq, Repr

/-- The four cases of DECODE (R68, R120). -/
inductive TagCase where
  | empty
  | hi91
  | hi91Short
  | unknown
deriving DecidableEq, Repr

/-- The stream map (R92): the tests in the rule's order, on the head of `buf` only. -/
def scanCase (buf : List Byte) : ScanCase :=
  if buf.length < hdrSize then .scanEnd
  else if SyncAtHead buf then
    if buf.length < frameTotal buf then .wait else .extract
  else .resync

/-- The CRC the Validator computes (R111). -/
def computedCrc (frame : List Byte) : U16 := crc16 crcSeedValidate (coveredBytes frame)

/-- The frame map (R110, R112): computed and transmitted CRC are equal, all 16 bits. -/
abbrev CrcMatches (frame : List Byte) : Prop := computedCrc frame = frameCrc frame

/-- The tag map (R68, R120): by the payload's length, then its first byte. The tag of an empty payload is not read (R136). -/
def tagCase (payload : List Byte) : TagCase :=
  if payload.length = 0 then .empty
  else if byteAt payload 0 = tagHi91 then
    if payload.length < hi91MinLen then .hi91Short else .hi91
  else .unknown

end Sys2Proof.Machine
end

