-- ==== Sys2Proof/Syntax.lean ====
section
/-! DEFINITION. The operations of the block, one constructor per row of opcode_table.json (00_scope.md section 6,
30_encoding.md section 7), and what selects a row (the table's `format` column). -/

namespace Sys2Proof

/-- The seven values of the state register `st` (R144). The name says which byte is expected next. -/
inductive SerialSt where
  | hunt1
  | hunt2
  | lenLo
  | lenHi
  | crcLo
  | crcHi
  | payload
deriving DecidableEq, Repr

/-- The 76-byte capture store `cap[0]` .. `cap[75]` (R144). -/
abbrev Capture := Vector Byte 76

/-- The eleven field rows of the table (R66). -/
inductive Hi91Field where
  | syncTime
  | temperature
  | pressure
  | systemTimeMs
  | acc
  | gyr
  | mag
  | roll
  | pitch
  | yaw
  | quat
deriving DecidableEq, Repr

/-- The operations. An operand stands where the defining rule names one; SCAN and its four cases work on the head of
`buf` and have none. -/
inductive Instr where
  /-- RESET (R190). -/
  | reset
  /-- FEED(chunk) (R90). -/
  | feed (chunk : List Byte)
  /-- APPEND (R91). -/
  | append (chunk : List Byte)
  /-- SCAN, one iteration of the loop (R92). -/
  | scan
  /-- EXTRACT (R95). -/
  | extract
  /-- WAIT (R94). -/
  | wait
  /-- RESYNC (R96). -/
  | resync
  /-- SCAN.END (R97). -/
  | scanEnd
  /-- CRC16(seed, bytes) (R80). -/
  | crc16 (seed : U16) (bytes : List Byte)
  /-- BYTESTEP(crc, b) (R81). -/
  | byteStep (crc : U16) (b : Byte)
  /-- ROUND(c) (R82). -/
  | round (c : U16)
  /-- VALIDATE(frame) (R110). -/
  | validate (frame : List Byte)
  /-- CRC.BAD, the validate case for that frame (R113). -/
  | crcBad (frame : List Byte)
  /-- CRC.OK, the validate case for that frame (R114). -/
  | crcOk (frame : List Byte)
  /-- DECODE(payload) (R120). -/
  | decode (payload : List Byte)
  /-- EMPTY, the decode case of a payload of no bytes (R136). -/
  | empty
  /-- HI91, DECODE_HI91(payload) (R122). -/
  | hi91 (payload : List Byte)
  /-- HI91.SHORT (R121). -/
  | hi91Short (payload : List Byte)
  /-- UNKNOWN (R135). -/
  | unknown (payload : List Byte)
  /-- HI91.sync_time (R123). -/
  | hi91SyncTime (payload : List Byte)
  /-- HI91.temperature (R124). -/
  | hi91Temperature (payload : List Byte)
  /-- HI91.pressure (R125). -/
  | hi91Pressure (payload : List Byte)
  /-- HI91.system_time_ms (R126). -/
  | hi91SystemTimeMs (payload : List Byte)
  /-- HI91.acc (R127). -/
  | hi91Acc (payload : List Byte)
  /-- HI91.gyr (R129). -/
  | hi91Gyr (payload : List Byte)
  /-- HI91.mag (R130). -/
  | hi91Mag (payload : List Byte)
  /-- HI91.roll (R131). -/
  | hi91Roll (payload : List Byte)
  /-- HI91.pitch (R132). -/
  | hi91Pitch (payload : List Byte)
  /-- HI91.yaw (R133). -/
  | hi91Yaw (payload : List Byte)
  /-- HI91.quat (R134). -/
  | hi91Quat (payload : List Byte)
  /-- BYTE(b) (R145). -/
  | byte (b : Byte)
  /-- BYTE.HUNT1 (R146). -/
  | byteHunt1 (b : Byte)
  /-- BYTE.HUNT2 (R147). -/
  | byteHunt2 (b : Byte)
  /-- BYTE.LEN_LO (R148). -/
  | byteLenLo (b : Byte)
  /-- BYTE.LEN_HI (R149). -/
  | byteLenHi (b : Byte)
  /-- BYTE.CRC_LO (R150). -/
  | byteCrcLo (b : Byte)
  /-- BYTE.CRC_HI (R151). -/
  | byteCrcHi (b : Byte)
  /-- BYTE.PAYLOAD (R152). -/
  | bytePayload (b : Byte)
  /-- FINISH(acc, rx, L, cap) (R153). -/
  | finish (acc rx len : U16) (cap : Capture)
  /-- FEED.serial, FEED(chunk) at the byte-serial level (R157). -/
  | feedSerial (chunk : List Byte)
  /-- RESET.serial, RESET at the byte-serial level (R158). -/
  | resetSerial
deriving DecidableEq, Repr

/-- The `format` column of the table: what selects a row (30_encoding.md section 7). -/
inductive Format where
  | host
  | feedStep
  | stream
  | function
  | frame
  | tag
  | hi91Field
  | serial
deriving DecidableEq, Repr

/-- What selects a row besides the bytes it is selected on. The table selects a host row by the host, a feed step by its
position in FEED, a function by its caller, a serial row by the state register; `stream`, `verdict` and `tag` are the three
maps of R68, inside which the bytes select. DESIGN CHOICE, log 3. -/
inductive Sel where
  | reset
  | feed
  | resetSerial
  | feedSerial
  | append
  | scan
  | stream
  | crc16
  | byteStep
  | round
  | validate
  | verdict
  | decode
  | tag
  | field (f : Hi91Field)
  | byte
  | state (st : SerialSt)
  | finish
deriving DecidableEq, Repr

/-- The table's format of a selector. -/
def Sel.format : Sel → Format
  | .reset => .host
  | .feed => .host
  | .resetSerial => .host
  | .feedSerial => .host
  | .append => .feedStep
  | .scan => .feedStep
  | .stream => .stream
  | .crc16 => .function
  | .byteStep => .function
  | .round => .function
  | .validate => .frame
  | .verdict => .frame
  | .decode => .tag
  | .tag => .tag
  | .field _ => .hi91Field
  | .byte => .serial
  | .state _ => .serial
  | .finish => .serial

/-- The encoded form of an operation: its selector and the bytes (a frame of the wire format R60 where the spec
encodes the row, the operand bytes elsewhere; log 3). -/
structure Code where
  sel : Sel
  bytes : List Byte
deriving DecidableEq, Repr

/-- What the outside presents to the block for one step: a clock edge with the input ports of R140, or an operation
by its code. -/
inductive Request where
  | edge (rst inValid : Bool) (inData : Byte)
  | op (code : Code)
deriving DecidableEq, Repr

end Sys2Proof
end

