-- ==== Sys2Proof/WellFormed.lean ====
section
/-! DEFINITION. Which operands an operation's defining rule admits. -/

namespace Sys2Proof

open Machine

/-- The operand condition of each row: VALIDATE and its cases take a complete candidate frame (R110, R113, R114), the tag
rows a payload that their row of R68 selects, and a payload has at most MAX_LEN bytes (R7). The other operands are bounded
by their types. -/
def Instr.WellFormed : Instr → Prop
  | .reset => True
  | .feed _ => True
  | .append _ => True
  | .scan => True
  | .extract => True
  | .wait => True
  | .resync => True
  | .scanEnd => True
  | .crc16 _ _ => True
  | .byteStep _ _ => True
  | .round _ => True
  | .validate f => CandidateFrame f
  | .crcBad f => CandidateFrame f ∧ ¬ CrcMatches f
  | .crcOk f => CandidateFrame f ∧ CrcMatches f
  | .decode p => p.length ≤ maxLen
  | .empty => True
  | .hi91 p => Hi91Payload p
  | .hi91Short p => Hi91ShortPayload p
  | .unknown p => UnknownPayload p
  | .hi91SyncTime p => Hi91Payload p
  | .hi91Temperature p => Hi91Payload p
  | .hi91Pressure p => Hi91Payload p
  | .hi91SystemTimeMs p => Hi91Payload p
  | .hi91Acc p => Hi91Payload p
  | .hi91Gyr p => Hi91Payload p
  | .hi91Mag p => Hi91Payload p
  | .hi91Roll p => Hi91Payload p
  | .hi91Pitch p => Hi91Payload p
  | .hi91Yaw p => Hi91Payload p
  | .hi91Quat p => Hi91Payload p
  | .byte _ => True
  | .byteHunt1 _ => True
  | .byteHunt2 _ => True
  | .byteLenLo _ => True
  | .byteLenHi _ => True
  | .byteCrcLo _ => True
  | .byteCrcHi _ => True
  | .bytePayload _ => True
  | .finish _ _ _ _ => True
  | .feedSerial _ => True
  | .resetSerial => True

end Sys2Proof
end

