-- ==== Sys2Proof/Decode.lean ====
section
/-! DEFINITION. The decoder (total on any selector and bytes, rejecting by name), the encoder after it, the wire-format
constructors FRAME, FRAMEX and HI91 of R75 and R76, and the opcode table's words. -/

namespace Sys2Proof

open Machine

/-- Why a code is no operation. -/
inductive DecodeError where
  /-- The operand bytes are too few or too many for the selector. -/
  | operandLength
  /-- The bytes are not one complete candidate frame (R110). -/
  | notAFrame
  /-- A field row was named on a frame whose payload is no HI91 payload (R122). -/
  | notHi91
deriving DecidableEq, Repr

/-- The operation a stream case stands for. -/
def scanCaseInstr : ScanCase → Instr
  | .scanEnd => .scanEnd
  | .wait => .wait
  | .extract => .extract
  | .resync => .resync

/-- The operation the tag map selects for a payload (R68). -/
def tagCaseInstr (payload : List Byte) : TagCase → Instr
  | .empty => .empty
  | .hi91 => .hi91 payload
  | .hi91Short => .hi91Short payload
  | .unknown => .unknown payload

/-- The operation of a field row. -/
def fieldInstr (payload : List Byte) : Hi91Field → Instr
  | .syncTime => .hi91SyncTime payload
  | .temperature => .hi91Temperature payload
  | .pressure => .hi91Pressure payload
  | .systemTimeMs => .hi91SystemTimeMs payload
  | .acc => .hi91Acc payload
  | .gyr => .hi91Gyr payload
  | .mag => .hi91Mag payload
  | .roll => .hi91Roll payload
  | .pitch => .hi91Pitch payload
  | .yaw => .hi91Yaw payload
  | .quat => .hi91Quat payload

/-- The operation of a byte-serial state (R145). -/
def stateInstr (b : Byte) : SerialSt → Instr
  | .hunt1 => .byteHunt1 b
  | .hunt2 => .byteHunt2 b
  | .lenLo => .byteLenLo b
  | .lenHi => .byteLenHi b
  | .crcLo => .byteCrcLo b
  | .crcHi => .byteCrcHi b
  | .payload => .bytePayload b

/-- A capture store of the first 76 bytes of a list. -/
def captureOfList (bytes : List Byte) : Capture := Vector.ofFn fun i => byteAt bytes i.val

/-- A code of no operand bytes. -/
def decodeBare (i : Instr) (bytes : List Byte) : Except DecodeError Instr :=
  if bytes = [] then .ok i else .error .operandLength

/-- A code whose bytes are one candidate frame (R60, R110). -/
def decodeFrame (row : List Byte → Instr) (bytes : List Byte) : Except DecodeError Instr :=
  if CandidateFrame bytes then .ok (row bytes) else .error .notAFrame

/-- The decoder. The operand bytes of function and serial rows are little-endian where they hold a `u16` (log 3). The
tag map does not look at the CRC again: it stands behind CRC.OK (R114, log 25). -/
def decode (c : Code) : Except DecodeError Instr :=
  match c.sel with
  | .reset => decodeBare .reset c.bytes
  | .feed => .ok (.feed c.bytes)
  | .resetSerial => decodeBare .resetSerial c.bytes
  | .feedSerial => .ok (.feedSerial c.bytes)
  | .append => .ok (.append c.bytes)
  | .scan => decodeBare .scan c.bytes
  | .stream => .ok (scanCaseInstr (scanCase c.bytes))
  | .crc16 =>
    match c.bytes with
    | lo :: hi :: bytes => .ok (.crc16 (hi ++ lo) bytes)
    | _ => .error .operandLength
  | .byteStep =>
    match c.bytes with
    | [lo, hi, b] => .ok (.byteStep (hi ++ lo) b)
    | _ => .error .operandLength
  | .round =>
    match c.bytes with
    | [lo, hi] => .ok (.round (hi ++ lo))
    | _ => .error .operandLength
  | .validate => decodeFrame .validate c.bytes
  | .verdict => decodeFrame (fun f => if CrcMatches f then .crcOk f else .crcBad f) c.bytes
  | .decode => decodeFrame (fun f => .decode (framePayload f)) c.bytes
  | .tag => decodeFrame (fun f => tagCaseInstr (framePayload f) (tagCase (framePayload f))) c.bytes
  | .field k =>
    if CandidateFrame c.bytes then
      if Hi91Payload (framePayload c.bytes) then .ok (fieldInstr (framePayload c.bytes) k) else .error .notHi91
    else .error .notAFrame
  | .byte =>
    match c.bytes with
    | [b] => .ok (.byte b)
    | _ => .error .operandLength
  | .state st =>
    match c.bytes with
    | [b] => .ok (stateInstr b st)
    | _ => .error .operandLength
  | .finish =>
    match c.bytes with
    | a0 :: a1 :: r0 :: r1 :: l0 :: l1 :: cap =>
      if cap.length = 76 then .ok (.finish (a1 ++ a0) (r1 ++ r0) (l1 ++ l0) (captureOfList cap))
      else .error .operandLength
    | _ => .error .operandLength

/-! ## The encoder -/

/-- A `u16` as its two bytes, little-endian (R43). -/
def u16Bytes (v : U16) : List Byte := [v.extractLsb' 0 8, v.extractLsb' 8 8]

/-- A `u32` as its four bytes, little-endian (R43). -/
def u32Bytes (v : U32) : List Byte :=
  [v.extractLsb' 0 8, v.extractLsb' 8 8, v.extractLsb' 16 8, v.extractLsb' 24 8]

/-- The four header bytes before the CRC field (R60). -/
def frameHead (p : List Byte) : List Byte := [sync1, sync2] ++ u16Bytes (BitVec.ofNat 16 p.length)

/-- FRAMEX(p, k') (R75): the frame around `p` with the CRC field forced to `k`. -/
def mkFrameX (p : List Byte) (k : U16) : List Byte := frameHead p ++ u16Bytes k ++ p

/-- FRAME(p) (R75), for a payload of at most MAX_LEN bytes. -/
def mkFrame (p : List Byte) : List Byte := mkFrameX p (Machine.crc16 crcSeedValidate (frameHead p ++ p))

/-- HI91(f) (R76): the 76-byte payload of the field values, each little-endian at its offset (R66). -/
def mkHi91 (r : DecodedRecord) : List Byte :=
  [tagHi91] ++ u16Bytes r.syncTimeRaw ++ [r.temperature] ++ u32Bytes r.pressure ++ u32Bytes r.systemTimeMs
    ++ u32Bytes r.acc0 ++ u32Bytes r.acc1 ++ u32Bytes r.acc2
    ++ u32Bytes r.gyr0 ++ u32Bytes r.gyr1 ++ u32Bytes r.gyr2
    ++ u32Bytes r.mag0 ++ u32Bytes r.mag1 ++ u32Bytes r.mag2
    ++ u32Bytes r.roll ++ u32Bytes r.pitch ++ u32Bytes r.yaw
    ++ u32Bytes r.quat0 ++ u32Bytes r.quat1 ++ u32Bytes r.quat2 ++ u32Bytes r.quat3

/-- The encoder. A tag or field row's payload is put in its frame by FRAME (R75). A stream case has no operand, so the
encoder writes one window that selects it: fewer than 6 bytes; six zero bytes; a header of length 1 alone; a header of
length 0 (R68). -/
def encode : Instr → Code
  | .reset => ⟨.reset, []⟩
  | .feed chunk => ⟨.feed, chunk⟩
  | .append chunk => ⟨.append, chunk⟩
  | .scan => ⟨.scan, []⟩
  | .extract => ⟨.stream, [sync1, sync2, 0, 0, 0, 0]⟩
  | .wait => ⟨.stream, [sync1, sync2, 1, 0, 0, 0]⟩
  | .resync => ⟨.stream, [0, 0, 0, 0, 0, 0]⟩
  | .scanEnd => ⟨.stream, []⟩
  | .crc16 seed bytes => ⟨.crc16, u16Bytes seed ++ bytes⟩
  | .byteStep crc b => ⟨.byteStep, u16Bytes crc ++ [b]⟩
  | .round c => ⟨.round, u16Bytes c⟩
  | .validate f => ⟨.validate, f⟩
  | .crcBad f => ⟨.verdict, f⟩
  | .crcOk f => ⟨.verdict, f⟩
  | .decode p => ⟨.decode, mkFrame p⟩
  | .empty => ⟨.tag, mkFrame []⟩
  | .hi91 p => ⟨.tag, mkFrame p⟩
  | .hi91Short p => ⟨.tag, mkFrame p⟩
  | .unknown p => ⟨.tag, mkFrame p⟩
  | .hi91SyncTime p => ⟨.field .syncTime, mkFrame p⟩
  | .hi91Temperature p => ⟨.field .temperature, mkFrame p⟩
  | .hi91Pressure p => ⟨.field .pressure, mkFrame p⟩
  | .hi91SystemTimeMs p => ⟨.field .systemTimeMs, mkFrame p⟩
  | .hi91Acc p => ⟨.field .acc, mkFrame p⟩
  | .hi91Gyr p => ⟨.field .gyr, mkFrame p⟩
  | .hi91Mag p => ⟨.field .mag, mkFrame p⟩
  | .hi91Roll p => ⟨.field .roll, mkFrame p⟩
  | .hi91Pitch p => ⟨.field .pitch, mkFrame p⟩
  | .hi91Yaw p => ⟨.field .yaw, mkFrame p⟩
  | .hi91Quat p => ⟨.field .quat, mkFrame p⟩
  | .byte b => ⟨.byte, [b]⟩
  | .byteHunt1 b => ⟨.state .hunt1, [b]⟩
  | .byteHunt2 b => ⟨.state .hunt2, [b]⟩
  | .byteLenLo b => ⟨.state .lenLo, [b]⟩
  | .byteLenHi b => ⟨.state .lenHi, [b]⟩
  | .byteCrcLo b => ⟨.state .crcLo, [b]⟩
  | .byteCrcHi b => ⟨.state .crcHi, [b]⟩
  | .bytePayload b => ⟨.state .payload, [b]⟩
  | .finish acc rx len cap => ⟨.finish, u16Bytes acc ++ u16Bytes rx ++ u16Bytes len ++ cap.toList⟩
  | .feedSerial chunk => ⟨.feedSerial, chunk⟩
  | .resetSerial => ⟨.resetSerial, []⟩

/-! ## The opcode table's words -/

/-- The `format` column of the row in opcode_table.json. -/
def Instr.format : Instr → Format
  | .reset => .host
  | .feed _ => .host
  | .append _ => .feedStep
  | .scan => .feedStep
  | .extract => .stream
  | .wait => .stream
  | .resync => .stream
  | .scanEnd => .stream
  | .crc16 _ _ => .function
  | .byteStep _ _ => .function
  | .round _ => .function
  | .validate _ => .frame
  | .crcBad _ => .frame
  | .crcOk _ => .frame
  | .decode _ => .tag
  | .empty => .tag
  | .hi91 _ => .tag
  | .hi91Short _ => .tag
  | .unknown _ => .tag
  | .hi91SyncTime _ => .hi91Field
  | .hi91Temperature _ => .hi91Field
  | .hi91Pressure _ => .hi91Field
  | .hi91SystemTimeMs _ => .hi91Field
  | .hi91Acc _ => .hi91Field
  | .hi91Gyr _ => .hi91Field
  | .hi91Mag _ => .hi91Field
  | .hi91Roll _ => .hi91Field
  | .hi91Pitch _ => .hi91Field
  | .hi91Yaw _ => .hi91Field
  | .hi91Quat _ => .hi91Field
  | .byte _ => .serial
  | .byteHunt1 _ => .serial
  | .byteHunt2 _ => .serial
  | .byteLenLo _ => .serial
  | .byteLenHi _ => .serial
  | .byteCrcLo _ => .serial
  | .byteCrcHi _ => .serial
  | .bytePayload _ => .serial
  | .finish _ _ _ _ => .serial
  | .feedSerial _ => .host
  | .resetSerial => .host

/-- The decode window W of 30_encoding.md section 7: the first 7 bytes, the byte at offset 0 the most significant. -/
def window (s : List Byte) : BitVec 56 :=
  byteAt s 0 ++ byteAt s 1 ++ byteAt s 2 ++ byteAt s 3 ++ byteAt s 4 ++ byteAt s 5 ++ byteAt s 6

/-- The `match` column of the row in opcode_table.json. -/
def Instr.tableMatch : Instr → BitVec 56
  | .reset => 0x00000000000000
  | .feed _ => 0x00000000000000
  | .append _ => 0x00000000000000
  | .scan => 0x00000000000000
  | .extract => 0x5AA50000000000
  | .wait => 0x5AA50000000000
  | .resync => 0x00000000000000
  | .scanEnd => 0x00000000000000
  | .crc16 _ _ => 0x00000000000000
  | .byteStep _ _ => 0x00000000000000
  | .round _ => 0x00000000000000
  | .validate _ => 0x5AA50000000000
  | .crcBad _ => 0x5AA50000000000
  | .crcOk _ => 0x5AA50000000000
  | .decode _ => 0x5AA50000000000
  | .empty => 0x5AA50000000000
  | .hi91 _ => 0x5AA50000000091
  | .hi91Short _ => 0x5AA50000000091
  | .unknown _ => 0x5AA50000000000
  | .hi91SyncTime _ => 0x5AA50000000091
  | .hi91Temperature _ => 0x5AA50000000091
  | .hi91Pressure _ => 0x5AA50000000091
  | .hi91SystemTimeMs _ => 0x5AA50000000091
  | .hi91Acc _ => 0x5AA50000000091
  | .hi91Gyr _ => 0x5AA50000000091
  | .hi91Mag _ => 0x5AA50000000091
  | .hi91Roll _ => 0x5AA50000000091
  | .hi91Pitch _ => 0x5AA50000000091
  | .hi91Yaw _ => 0x5AA50000000091
  | .hi91Quat _ => 0x5AA50000000091
  | .byte _ => 0x00000000000000
  | .byteHunt1 _ => 0x00000000000000
  | .byteHunt2 _ => 0x00000000000000
  | .byteLenLo _ => 0x00000000000000
  | .byteLenHi _ => 0x00000000000000
  | .byteCrcLo _ => 0x00000000000000
  | .byteCrcHi _ => 0x00000000000000
  | .bytePayload _ => 0x00000000000000
  | .finish _ _ _ _ => 0x00000000000000
  | .feedSerial _ => 0x00000000000000
  | .resetSerial => 0x00000000000000

/-- The `mask` column of the row in opcode_table.json. -/
def Instr.tableMask : Instr → BitVec 56
  | .reset => 0x00000000000000
  | .feed _ => 0x00000000000000
  | .append _ => 0x00000000000000
  | .scan => 0x00000000000000
  | .extract => 0xFFFF0000000000
  | .wait => 0xFFFF0000000000
  | .resync => 0x00000000000000
  | .scanEnd => 0x00000000000000
  | .crc16 _ _ => 0x00000000000000
  | .byteStep _ _ => 0x00000000000000
  | .round _ => 0x00000000000000
  | .validate _ => 0xFFFF0000000000
  | .crcBad _ => 0xFFFF0000000000
  | .crcOk _ => 0xFFFF0000000000
  | .decode _ => 0xFFFF0000000000
  | .empty => 0xFFFFFFFF000000
  | .hi91 _ => 0xFFFF00000000FF
  | .hi91Short _ => 0xFFFF00000000FF
  | .unknown _ => 0xFFFF0000000000
  | .hi91SyncTime _ => 0xFFFF00000000FF
  | .hi91Temperature _ => 0xFFFF00000000FF
  | .hi91Pressure _ => 0xFFFF00000000FF
  | .hi91SystemTimeMs _ => 0xFFFF00000000FF
  | .hi91Acc _ => 0xFFFF00000000FF
  | .hi91Gyr _ => 0xFFFF00000000FF
  | .hi91Mag _ => 0xFFFF00000000FF
  | .hi91Roll _ => 0xFFFF00000000FF
  | .hi91Pitch _ => 0xFFFF00000000FF
  | .hi91Yaw _ => 0xFFFF00000000FF
  | .hi91Quat _ => 0xFFFF00000000FF
  | .byte _ => 0x00000000000000
  | .byteHunt1 _ => 0x00000000000000
  | .byteHunt2 _ => 0x00000000000000
  | .byteLenLo _ => 0x00000000000000
  | .byteLenHi _ => 0x00000000000000
  | .byteCrcLo _ => 0x00000000000000
  | .byteCrcHi _ => 0x00000000000000
  | .bytePayload _ => 0x00000000000000
  | .finish _ _ _ _ => 0x00000000000000
  | .feedSerial _ => 0x00000000000000
  | .resetSerial => 0x00000000000000

/-- The bytes of a table word of `n` bytes, in stream order: byte `k` is `W[8(n-k)-1 : 8(n-k-1)]` (30_encoding.md section 7). -/
def windowBytes : Nat → Nat → List Byte
  | 0, _ => []
  | n + 1, w => BitVec.ofNat 8 (w / 256 ^ n) :: windowBytes n w

/-- The frame a window begins: its bytes and zeros after them, up to its declared end (a byte past that end is not part
of the frame). -/
def frameOfWindow (win : List Byte) : List Byte :=
  (win ++ List.replicate (frameTotal win - win.length) 0).take (frameTotal win)

/-- The code a table word stands for: a window with the sync pair is a frame for the tag map, any other window is a
head of `buf` for the stream map. DESIGN CHOICE among the maps of R68 that one window enters in turn, log 4. -/
def codeOfTableWord (nbits w : Nat) : Code :=
  let win := windowBytes (nbits / 8) w
  if SyncAtHead win then ⟨.tag, frameOfWindow win⟩ else ⟨.stream, win⟩

/-- The operation the decoder reads from a word of opcode_table.json. -/
def decodeTableWord (nbits w : Nat) : Option Instr :=
  match decode (codeOfTableWord nbits w) with
  | .ok i => some i
  | .error _ => none

end Sys2Proof
end

