-- ==== Sys2Proof/Machine/State.lean ====
section
/-! DEFINITION. The state of the block as plain data, its value after reset, and the reasons a step can stop. -/

namespace Sys2Proof.Machine

/-- There is no fault: "no input, in any state, stops it" (93_implementation_defined.md section 1, R172, R178). -/
inductive Fault where
deriving DecidableEq, Repr

/-- Why the model does not answer. No request that the host contract (R194, R195) admits is refused. -/
inductive Refusal where
  /-- The arm of an operation that has no meaning yet. No arm raises it. Safe. -/
  | notModelled (mnemonic : String)
  /-- RESET, FEED and APPEND while a FEED is running: overlapping operations are undefined and not admitted (R54, R196, U1,
  "refuse"). Safe. -/
  | overlap
  /-- A case row run where the condition that selects it does not hold, or on an operand its rule does not admit (R40, R47,
  R68): the spec gives it no effect there. Raised by the meanings of the stream, frame, tag, field and byte-serial state
  rows. Safe. Log 13. -/
  | notSelected (mnemonic : String)
  /-- A request whose selector and bytes are no operation. Raised by step. Safe. Log 3. -/
  | undecodable (e : DecodeError)
deriving DecidableEq, Repr

/-- The registers of the byte-serial realisation (R144). -/
structure SerialRegs where
  /-- `st`: which byte of a frame is awaited. -/
  st : SerialSt
  /-- `len_r`: `length` of the frame being assembled. -/
  lenR : U16
  /-- `crc_rx`: transmitted CRC. -/
  crcRx : U16
  /-- `crc_acc`: running CRC over the covered bytes seen so far. -/
  crcAcc : U16
  /-- `cnt`: payload bytes already taken. -/
  cnt : U16
  /-- `cap[0]` .. `cap[75]`: payload bytes 0 to 75. -/
  cap : Capture
deriving DecidableEq, Repr

/-- The outputs of the byte-serial realisation in the step just taken (R141, R142). -/
structure Ports where
  /-- `rec_valid` and the 20 field outputs: `some r` is `rec_valid = 1` with `r` on the field outputs; with
  `rec_valid = 0` the field outputs have no value (R141, log 14). -/
  record : Option DecodedRecord
  sigCrcMismatch : Bool
  sigUnknownType : Bool
  sigPayloadTooShort : Bool
deriving DecidableEq, Repr

/-- `rec_valid` (R141). -/
def Ports.recValid (p : Ports) : Bool := p.record.isSome

/-- The outputs of a step that completes no frame, and after reset: all four pulses 0 (R142). -/
def Ports.quiet : Ports where
  record := none
  sigCrcMismatch := false
  sigUnknownType := false
  sigPayloadTooShort := false

/-- The value a function or field row returns to its caller (R80 to R82, R123 to R134). -/
inductive FnValue where
  | u16 (v : U16)
  | byte (v : Byte)
  | u32 (v : U32)
  | triple (v0 v1 v2 : U32)
  | quad (v0 v1 v2 v3 : U32)
deriving DecidableEq, Repr

/-- The state: the buffer level, the byte-serial realisation beside it, and the model's own fields. -/
structure State where
  /-- RawStreamBuffer, the whole architectural state at the buffer level (R20); unbounded (R25, D5). -/
  buf : List Byte
  /-- The event list of the FEED running or last run at the buffer level, an output (R34, log 5). -/
  ev : List Event
  /-- The model's own: a FEED is running at the buffer level, its loop has not ended (R24, R97, R196, log 7). -/
  scanning : Bool
  /-- The registers of the byte-serial realisation (R144). -/
  regs : SerialRegs
  /-- Its outputs (R141, R142). -/
  ports : Ports
  /-- The event list of the last FEED at the byte-serial level, an output (R157, log 5). -/
  serialEv : List Event
  /-- The model's own: the value the last function or field row returned to its caller (log 6). -/
  ret : Option FnValue
  /-- The model's own: the host's requests not yet served (log 2). -/
  pending : List Request
  /-- The model's own: the number of the next draw of free values (log 10). -/
  freeCtr : Nat
deriving DecidableEq, Repr

/-- The machine after reset: `buf = []` (R32), `st = HUNT1`, pulses 0 (R142, R144). The other byte-serial registers are
unspecified there (R144) and hold 0 by DESIGN CHOICE (log 8). -/
def State.reset : State where
  buf := []
  ev := []
  scanning := false
  regs :=
    { st := .hunt1
      lenR := 0
      crcRx := 0
      crcAcc := 0
      cnt := 0
      cap := Vector.replicate 76 0 }
  ports := Ports.quiet
  serialEv := []
  ret := none
  pending := []
  freeCtr := 0

end Sys2Proof.Machine
end

