-- ==== Sys2Proof/Machine/Flags.lean ====
section
/-! DEFINITION. The block stores no status flag (R30). What stands in their place: the one-step pulses an event drives (R141,
R142), and the condition codes (R170, R171) with the order in which the conditions are tested (R174). -/

namespace Sys2Proof.Machine

/-- The outputs of a step whose byte completed a frame with that event, or completed none (R141, R142). -/
def Ports.ofEvent : Option Event → Ports
  | none => Ports.quiet
  | some (.record r) => { Ports.quiet with record := some r }
  | some (.signal .crcMismatch) => { Ports.quiet with sigCrcMismatch := true }
  | some (.signal .unknownFrameType) => { Ports.quiet with sigUnknownType := true }
  | some (.signal .payloadTooShort) => { Ports.quiet with sigPayloadTooShort := true }

/-- How many of the four pulses are 1 (R142). -/
def Ports.pulseCount (p : Ports) : Nat :=
  p.recValid.toNat + p.sigCrcMismatch.toNat + p.sigUnknownType.toNat + p.sigPayloadTooShort.toNat

/-- The five conditions and "none" (R170, R171). -/
inductive Condition where
  | none
  | syncLoss
  | truncatedFrame
  | crcMismatch
  | unknownFrameType
  | payloadTooShort
deriving DecidableEq, Repr

/-- The condition codes (R171, D9). -/
def Condition.code : Condition → Nat
  | .none => 0
  | .syncLoss => 1
  | .truncatedFrame => 2
  | .crcMismatch => 3
  | .unknownFrameType => 4
  | .payloadTooShort => 5

/-- The event a condition puts in `ev`, if it is a signal: SyncLoss and TruncatedFrame put none (R171, D16). -/
def Condition.signal : Condition → Option Signal
  | .none => Option.none
  | .syncLoss => Option.none
  | .truncatedFrame => Option.none
  | .crcMismatch => some .crcMismatch
  | .unknownFrameType => some .unknownFrameType
  | .payloadTooShort => some .payloadTooShort

/-- The condition of the bytes at the head of `buf`, in the fixed order of tests of R174: the first that applies. -/
def headCondition (buf : List Byte) : Condition :=
  let frame := buf.take (frameTotal buf)
  if buf.length < hdrSize then .none
  else if ¬ SyncAtHead buf then .syncLoss
  else if buf.length < frameTotal buf then .truncatedFrame
  else if ¬ CrcMatches frame then .crcMismatch
  else if frameLength buf = 0 ∨ byteAt buf hdrSize ≠ tagHi91 then .unknownFrameType
  else if frameLength buf < hi91MinLen then .payloadTooShort
  else .none

end Sys2Proof.Machine
end

