-- ==== Sys2Proof/Machine/Ops.lean ====
section
/-! DEFINITION. The named operations over the state: the two writes of `buf` (R21), raising a signal and emitting a record (R176),
and the outcome of a frame and of a payload (R110, R120), which the buffer level and the byte-serial level share. -/

namespace Sys2Proof.Machine

/-- What a step answers. -/
abbrev Result := Host.Outcome State Fault Refusal

/-- Append(t): at the tail of `buf` (R21). -/
def State.appendTail (s : State) (t : List Byte) : State := { s with buf := s.buf ++ t }

/-- DropHead(n): from the head of `buf` (R21). -/
def State.dropHead (s : State) (n : Nat) : State := { s with buf := s.buf.drop n }

/-- Append an event to the event list of the running FEED, and nothing else (R98). -/
def State.putEvent (s : State) (e : Event) : State := { s with ev := s.ev ++ [e] }

/-- `raise X` (R176): the whole of what a condition does when it is reported. It saves no state, changes no mode and jumps
nowhere; there is no return from it, since scanning resumes with the remaining buffer (R177). -/
def State.raise (s : State) (x : Signal) : State := s.putEvent (.signal x)

/-- `emit Record(r)` (00_scope.md section 5). -/
def State.emitRecord (s : State) (r : DecodedRecord) : State := s.putEvent (.record r)

/-- Return a value to the caller of a function or field row (log 6). -/
def State.returns (s : State) (v : FnValue) : State := { s with ret := some v }

/-- A meaning that has its effect only where its row is selected or its operand admitted (log 13). -/
def whenSelected (selected : Bool) (mnemonic : String) (t : State) : Result :=
  if selected then .next t else .refused (.notSelected mnemonic)

/-- A meaning that starts a host operation at the buffer level: not while a FEED is running (R196, U1). -/
def whenQuiescent (s : State) (t : State) : Result :=
  if s.scanning then .refused .overlap else .next t

/-- The event of a validated payload (R120): exactly one. -/
def payloadEvent (payload : List Byte) : Event :=
  match tagCase payload with
  | .empty => .signal Config.emptyPayloadClass
  | .hi91 => .record (decodeHi91 payload)
  | .hi91Short => .signal .payloadTooShort
  | .unknown => .signal .unknownFrameType

/-- The event of a candidate frame (R110): exactly one. -/
def frameEvent (frame : List Byte) : Event :=
  if CrcMatches frame then payloadEvent (framePayload frame) else .signal .crcMismatch

/-- The candidate frame at the head of `buf`, and its removal with the frame's event (R95): the bytes go whether or not
the frame validates (R115). -/
def State.extractHead (s : State) : State :=
  (s.dropHead (frameTotal s.buf)).putEvent (frameEvent (s.buf.take (frameTotal s.buf)))

/-- The loop of FEED ends (R97). -/
def State.endLoop (s : State) : State := { s with scanning := false }

/-- FEED's loop on a buffer (R90): at most `fuel` iterations, the ending one included; the buffer left and the events,
in order. -/
def scanLoop : Nat → List Byte → List Byte × List Event
  | 0, buf => (buf, [])
  | fuel + 1, buf =>
    match scanCase buf with
    | .scanEnd => (buf, [])
    | .wait => (buf, [])
    | .extract =>
      let r := scanLoop fuel (buf.drop (frameTotal buf))
      (r.1, frameEvent (buf.take (frameTotal buf)) :: r.2)
    | .resync => scanLoop fuel (buf.drop 1)

/-- FEED as the pure transition (buf, chunk) to (buf', ev) of R23 and R52. Each iteration but the last shortens the
buffer, so its length plus one bounds their number (R99). -/
def feedBuffer (buf chunk : List Byte) : List Byte × List Event :=
  scanLoop ((buf ++ chunk).length + 1) (buf ++ chunk)

/-- A session: one FEED after another on the same instance, with the event list of each. -/
def feedSession : List Byte → List (List Byte) → List Byte × List (List Event)
  | buf, [] => (buf, [])
  | buf, chunk :: chunks =>
    let r := feedBuffer buf chunk
    let rest := feedSession r.1 chunks
    (rest.1, r.2 :: rest.2)

end Sys2Proof.Machine
end

