-- ==== Sys2Proof/Machine/Assembler.lean ====
section
/-! DEFINITION. The steps of FEED (41_sync_assembler.md): APPEND, SCAN and the four cases of SCAN. -/

namespace Sys2Proof.Machine

/-- APPEND (R91), the first step of a FEED: the whole chunk, whatever its length. -/
def execAppend (chunk : List Byte) (s : State) : Result :=
  whenQuiescent s { s.appendTail chunk with scanning := true }

/-- SCAN (R92): one iteration, exactly one of the four cases. -/
def execScan (s : State) : Result :=
  match scanCase s.buf with
  | .scanEnd => .next s.endLoop
  | .wait => .next s.endLoop
  | .extract => .next s.extractHead
  | .resync => .next (s.dropHead 1)

/-- EXTRACT (R95): remove the candidate frame and validate it; one event. -/
def execExtract (s : State) : Result :=
  whenSelected (scanCase s.buf = .extract) "EXTRACT" s.extractHead

/-- WAIT (R94, TruncatedFrame): `buf` unchanged, no event, the loop ends. -/
def execWait (s : State) : Result :=
  whenSelected (scanCase s.buf = .wait) "WAIT" s.endLoop

/-- RESYNC (R96, SyncLoss): drop exactly one byte, no event. -/
def execResync (s : State) : Result :=
  whenSelected (scanCase s.buf = .resync) "RESYNC" (s.dropHead 1)

/-- SCAN.END (R97): fewer than 6 bytes, the loop ends, `buf` untouched. -/
def execScanEnd (s : State) : Result :=
  whenSelected (scanCase s.buf = .scanEnd) "SCAN.END" s.endLoop

end Sys2Proof.Machine
end

