-- ==== Sys2Proof/Machine/CrcEngine.lean ====
section
/-! DEFINITION. The function rows (40_crc_engine.md): pure, no state read or written; the value goes to the caller. -/

namespace Sys2Proof.Machine

/-- CRC16(seed, bytes) (R80). -/
def execCrc16 (seed : U16) (bytes : List Byte) (s : State) : Result :=
  .next (s.returns (.u16 (crc16 seed bytes)))

/-- BYTESTEP(crc, b) (R81). -/
def execByteStep (crc : U16) (b : Byte) (s : State) : Result :=
  .next (s.returns (.u16 (crcByteStep crc b)))

/-- ROUND(c) (R82). -/
def execRound (c : U16) (s : State) : Result :=
  .next (s.returns (.u16 (crcRound c)))

end Sys2Proof.Machine
end

