-- ==== Sys2Proof/Machine/HostOps.lean ====
section
/-! DEFINITION. The host operations of the buffer level (R90, R190). -/

namespace Sys2Proof.Machine

/-- RESET (R190): `buf <- []`, no event, at a quiescent moment (R191). No event list exists until the next FEED
(10_state.md section 4). -/
def execReset (s : State) : Result :=
  whenQuiescent s { s with buf := [], ev := [] }

/-- FEED(chunk) (R90): one indivisible transition (R52); the event list is created empty (R34). -/
def execFeed (chunk : List Byte) (s : State) : Result :=
  whenQuiescent s
    { s with
      buf := (feedBuffer s.buf chunk).1
      ev := (feedBuffer s.buf chunk).2 }

end Sys2Proof.Machine
end

