-- ==== Sys2Proof/Machine/PayloadDecoder.lean ====
section
/-! DEFINITION. The tag rows and the field rows (43_payload_decoder.md). -/

namespace Sys2Proof.Machine

/-- DECODE(payload) (R120): exactly one event. -/
def execDecode (payload : List Byte) (s : State) : Result :=
  .next (s.putEvent (payloadEvent payload))

/-- EMPTY (R136): the tag is not read. -/
def execEmpty (s : State) : Result :=
  .next (s.raise Config.emptyPayloadClass)

/-- HI91 (R122): one record, all fields at once. -/
def execHi91 (payload : List Byte) (s : State) : Result :=
  whenSelected (Hi91Payload payload) "HI91" (s.emitRecord (decodeHi91 payload))

/-- HI91.SHORT (R121): no field is read. -/
def execHi91Short (payload : List Byte) (s : State) : Result :=
  whenSelected (Hi91ShortPayload payload) "HI91.SHORT" (s.raise .payloadTooShort)

/-- UNKNOWN (R135): the rest of the payload is not looked at. -/
def execUnknown (payload : List Byte) (s : State) : Result :=
  whenSelected (UnknownPayload payload) "UNKNOWN" (s.raise .unknownFrameType)

/-- HI91.sync_time (R123). -/
def execHi91SyncTime (payload : List Byte) (s : State) : Result :=
  whenSelected (Hi91Payload payload) "HI91.sync_time" (s.returns (.u16 (fieldSyncTime payload)))

/-- HI91.temperature (R124). -/
def execHi91Temperature (payload : List Byte) (s : State) : Result :=
  whenSelected (Hi91Payload payload) "HI91.temperature" (s.returns (.byte (fieldTemperature payload)))

/-- HI91.pressure (R125). -/
def execHi91Pressure (payload : List Byte) (s : State) : Result :=
  whenSelected (Hi91Payload payload) "HI91.pressure" (s.returns (.u32 (fieldPressure payload)))

/-- HI91.system_time_ms (R126). -/
def execHi91SystemTimeMs (payload : List Byte) (s : State) : Result :=
  whenSelected (Hi91Payload payload) "HI91.system_time_ms" (s.returns (.u32 (fieldSystemTimeMs payload)))

/-- HI91.acc (R127). -/
def execHi91Acc (payload : List Byte) (s : State) : Result :=
  whenSelected (Hi91Payload payload) "HI91.acc"
    (s.returns (.triple (fieldAcc payload 0) (fieldAcc payload 1) (fieldAcc payload 2)))

/-- HI91.gyr (R129). -/
def execHi91Gyr (payload : List Byte) (s : State) : Result :=
  whenSelected (Hi91Payload payload) "HI91.gyr"
    (s.returns (.triple (fieldGyr payload 0) (fieldGyr payload 1) (fieldGyr payload 2)))

/-- HI91.mag (R130). -/
def execHi91Mag (payload : List Byte) (s : State) : Result :=
  whenSelected (Hi91Payload payload) "HI91.mag"
    (s.returns (.triple (fieldMag payload 0) (fieldMag payload 1) (fieldMag payload 2)))

/-- HI91.roll (R131). -/
def execHi91Roll (payload : List Byte) (s : State) : Result :=
  whenSelected (Hi91Payload payload) "HI91.roll" (s.returns (.u32 (fieldRoll payload)))

/-- HI91.pitch (R132). -/
def execHi91Pitch (payload : List Byte) (s : State) : Result :=
  whenSelected (Hi91Payload payload) "HI91.pitch" (s.returns (.u32 (fieldPitch payload)))

/-- HI91.yaw (R133). -/
def execHi91Yaw (payload : List Byte) (s : State) : Result :=
  whenSelected (Hi91Payload payload) "HI91.yaw" (s.returns (.u32 (fieldYaw payload)))

/-- HI91.quat (R134). -/
def execHi91Quat (payload : List Byte) (s : State) : Result :=
  whenSelected (Hi91Payload payload) "HI91.quat"
    (s.returns (.quad (fieldQuat payload 0) (fieldQuat payload 1) (fieldQuat payload 2) (fieldQuat payload 3)))

end Sys2Proof.Machine
end

