-- ==== Sys2Proof/Machine/SerialOps.lean ====
section
/-! DEFINITION. The step of the byte-serial realisation as a function from (registers, byte) to (registers, optional event) (R143),
state by state (R146 to R153), and its operations over the state. -/

namespace Sys2Proof.Machine

/-- `v[7:0] <- b`. -/
def setLowByte (v : U16) (b : Byte) : U16 := v.extractLsb' 8 8 ++ b

/-- `v[15:8] <- b`. -/
def setHighByte (v : U16) (b : Byte) : U16 := b ++ v.extractLsb' 0 8

/-- The verdict of FINISH (R153): the tests in priority order. `cap[0]` matters only when `L >= 1`, the rest only when `L >= 76`. -/
def finishEvent (acc rx len : U16) (cap : Capture) : Event :=
  if acc ≠ rx then .signal .crcMismatch
  else if len = 0 then .signal Config.emptyPayloadClass
  else if cap[0] ≠ tagHi91 then .signal .unknownFrameType
  else if len.toNat < hi91MinLen then .signal .payloadTooShort
  else .record (decodeHi91 cap.toList)

/-- State HUNT1 (R146). -/
def serialHunt1 (r : SerialRegs) (b : Byte) : SerialRegs × Option Event :=
  ({ r with st := if b = sync1 then .hunt2 else .hunt1 }, none)

/-- State HUNT2 (R147). -/
def serialHunt2 (r : SerialRegs) (b : Byte) : SerialRegs × Option Event :=
  if b = sync2 then ({ r with st := .lenLo, crcAcc := crcAfterSync }, none)
  else ({ r with st := if b = sync1 then .hunt2 else .hunt1 }, none)

/-- State LEN_LO (R148). -/
def serialLenLo (r : SerialRegs) (b : Byte) : SerialRegs × Option Event :=
  ({ r with st := .lenHi, lenR := setLowByte r.lenR b, crcAcc := crcByteStep r.crcAcc b }, none)

/-- State LEN_HI (R149). -/
def serialLenHi (r : SerialRegs) (b : Byte) : SerialRegs × Option Event :=
  ({ r with st := .crcLo, lenR := setHighByte r.lenR b, crcAcc := crcByteStep r.crcAcc b }, none)

/-- State CRC_LO (R150): the CRC field is not covered. -/
def serialCrcLo (r : SerialRegs) (b : Byte) : SerialRegs × Option Event :=
  ({ r with st := .crcHi, crcRx := setLowByte r.crcRx b }, none)

/-- State CRC_HI (R151): a frame of length 0 is complete with this byte. -/
def serialCrcHi (r : SerialRegs) (b : Byte) : SerialRegs × Option Event :=
  let r' := { r with crcRx := setHighByte r.crcRx b, cnt := 0 }
  if r'.lenR = 0 then
    ({ r' with st := .hunt1 }, some (finishEvent r'.crcAcc r'.crcRx 0 r'.cap))
  else ({ r' with st := .payload }, none)

/-- State PAYLOAD (R152): offsets 76 and above update `crc_acc` and `cnt` only. -/
def serialPayload (r : SerialRegs) (b : Byte) : SerialRegs × Option Event :=
  let r' :=
    { r with
      cap := if r.cnt.toNat < 76 then r.cap.setIfInBounds r.cnt.toNat b else r.cap
      crcAcc := crcByteStep r.crcAcc b
      cnt := r.cnt + 1 }
  if r'.cnt = r'.lenR then
    ({ r' with st := .hunt1 }, some (finishEvent r'.crcAcc r'.crcRx r'.lenR r'.cap))
  else ({ r' with st := .payload }, none)

/-- BYTE(b) (R145): dispatch on `st`. -/
def serialByte (r : SerialRegs) (b : Byte) : SerialRegs × Option Event :=
  match r.st with
  | .hunt1 => serialHunt1 r b
  | .hunt2 => serialHunt2 r b
  | .lenLo => serialLenLo r b
  | .lenHi => serialLenHi r b
  | .crcLo => serialCrcLo r b
  | .crcHi => serialCrcHi r b
  | .payload => serialPayload r b

/-- FEED(chunk) at this level (R157): the steps in order; the registers left and the events in order. -/
def serialFeed : SerialRegs → List Byte → SerialRegs × List Event
  | r, [] => (r, [])
  | r, b :: bs =>
    let first := serialByte r b
    let rest := serialFeed first.1 bs
    (rest.1, first.2.toList ++ rest.2)

/-- A session at this level: one FEED after another, with the event list of each. -/
def serialSession : SerialRegs → List (List Byte) → SerialRegs × List (List Event)
  | r, [] => (r, [])
  | r, chunk :: chunks =>
    let first := serialFeed r chunk
    let rest := serialSession first.1 chunks
    (rest.1, first.2 :: rest.2)

/-- The outcome of one byte, on the registers and the outputs (R142). -/
def State.latch (s : State) (o : SerialRegs × Option Event) : State :=
  { s with regs := o.1, ports := Ports.ofEvent o.2 }

/-- The bytes of a chunk one after the other, each event put in the list (R157). The outputs are those of the last byte;
an empty chunk is no step and leaves them. -/
def State.acceptBytes : List Byte → State → State
  | [], s => s
  | b :: bs, s =>
    let o := serialByte s.regs b
    State.acceptBytes bs { s.latch o with serialEv := s.serialEv ++ o.2.toList }

/-- The registers after RESET.serial (R158): `st` is HUNT1, every other register a free value of draw `n` (log 9). -/
def resetRegs (n : Nat) : SerialRegs where
  st := .hunt1
  lenR := Config.freeU16 (4 * n)
  crcRx := Config.freeU16 (4 * n + 1)
  crcAcc := Config.freeU16 (4 * n + 2)
  cnt := Config.freeU16 (4 * n + 3)
  cap := Vector.ofFn fun i => Config.freeByte (76 * n + i.val)

end Sys2Proof.Machine
end

