-- ==== Sys2Proof/Machine/Serial.lean ====
section
/-! DEFINITION. The byte-serial rows (44_serial_datapath.md). -/

namespace Sys2Proof.Machine

/-- BYTE(b) (R145). -/
def execByte (b : Byte) (s : State) : Result :=
  .next (s.latch (serialByte s.regs b))

/-- BYTE.HUNT1 (R146). -/
def execByteHunt1 (b : Byte) (s : State) : Result :=
  whenSelected (s.regs.st = .hunt1) "BYTE.HUNT1" (s.latch (serialHunt1 s.regs b))

/-- BYTE.HUNT2 (R147). -/
def execByteHunt2 (b : Byte) (s : State) : Result :=
  whenSelected (s.regs.st = .hunt2) "BYTE.HUNT2" (s.latch (serialHunt2 s.regs b))

/-- BYTE.LEN_LO (R148). -/
def execByteLenLo (b : Byte) (s : State) : Result :=
  whenSelected (s.regs.st = .lenLo) "BYTE.LEN_LO" (s.latch (serialLenLo s.regs b))

/-- BYTE.LEN_HI (R149). -/
def execByteLenHi (b : Byte) (s : State) : Result :=
  whenSelected (s.regs.st = .lenHi) "BYTE.LEN_HI" (s.latch (serialLenHi s.regs b))

/-- BYTE.CRC_LO (R150). -/
def execByteCrcLo (b : Byte) (s : State) : Result :=
  whenSelected (s.regs.st = .crcLo) "BYTE.CRC_LO" (s.latch (serialCrcLo s.regs b))

/-- BYTE.CRC_HI (R151). -/
def execByteCrcHi (b : Byte) (s : State) : Result :=
  whenSelected (s.regs.st = .crcHi) "BYTE.CRC_HI" (s.latch (serialCrcHi s.regs b))

/-- BYTE.PAYLOAD (R152). -/
def execBytePayload (b : Byte) (s : State) : Result :=
  whenSelected (s.regs.st = .payload) "BYTE.PAYLOAD" (s.latch (serialPayload s.regs b))

/-- FINISH(acc, rx, L, cap) (R153): `st <- HUNT1` and the verdict. -/
def execFinish (acc rx len : U16) (cap : Capture) (s : State) : Result :=
  .next (s.latch ({ s.regs with st := .hunt1 }, some (finishEvent acc rx len cap)))

/-- FEED.serial (R157): the event list is created empty. -/
def execFeedSerial (chunk : List Byte) (s : State) : Result :=
  .next (State.acceptBytes chunk { s with serialEv := [] })

/-- RESET.serial (R158): a frame under assembly is abandoned without any event. -/
def execResetSerial (s : State) : Result :=
  .next
    { s with
      regs := resetRegs s.freeCtr
      ports := Ports.quiet
      serialEv := []
      freeCtr := s.freeCtr + 1 }

end Sys2Proof.Machine
end

