-- ==== Sys2Proof/Machine/Validator.lean ====
section
/-! DEFINITION. The frame rows (42_frame_validator.md). -/

namespace Sys2Proof.Machine

/-- VALIDATE(frame) (R110): exactly one event. -/
def execValidate (frame : List Byte) (s : State) : Result :=
  whenSelected (CandidateFrame frame) "VALIDATE" (s.putEvent (frameEvent frame))

/-- CRC.BAD (R113): raise CrcMismatch, nothing else. -/
def execCrcBad (frame : List Byte) (s : State) : Result :=
  whenSelected (CandidateFrame frame ∧ ¬ CrcMatches frame) "CRC.BAD" (s.raise .crcMismatch)

/-- CRC.OK (R114): the payload, and only the payload, goes to DECODE. -/
def execCrcOk (frame : List Byte) (s : State) : Result :=
  whenSelected (CandidateFrame frame ∧ CrcMatches frame) "CRC.OK" (s.putEvent (payloadEvent (framePayload frame)))

end Sys2Proof.Machine
end

