-- ==== Sys2Proof/Machine/Dispatch.lean ====
section
/-! DEFINITION. One arm per operation. -/

namespace Sys2Proof.Machine

def exec (i : Instr) (s : State) : Host.Outcome State Fault Refusal :=
  match i with
  | .reset => Sys2Proof.Machine.execReset s
  | .feed chunk => Sys2Proof.Machine.execFeed chunk s
  | .append chunk => Sys2Proof.Machine.execAppend chunk s
  | .scan => Sys2Proof.Machine.execScan s
  | .extract => Sys2Proof.Machine.execExtract s
  | .wait => Sys2Proof.Machine.execWait s
  | .resync => Sys2Proof.Machine.execResync s
  | .scanEnd => Sys2Proof.Machine.execScanEnd s
  | .crc16 seed bytes => Sys2Proof.Machine.execCrc16 seed bytes s
  | .byteStep crc b => Sys2Proof.Machine.execByteStep crc b s
  | .round c => Sys2Proof.Machine.execRound c s
  | .validate frame => Sys2Proof.Machine.execValidate frame s
  | .crcBad frame => Sys2Proof.Machine.execCrcBad frame s
  | .crcOk frame => Sys2Proof.Machine.execCrcOk frame s
  | .decode payload => Sys2Proof.Machine.execDecode payload s
  | .empty => Sys2Proof.Machine.execEmpty s
  | .hi91 payload => Sys2Proof.Machine.execHi91 payload s
  | .hi91Short payload => Sys2Proof.Machine.execHi91Short payload s
  | .unknown payload => Sys2Proof.Machine.execUnknown payload s
  | .hi91SyncTime payload => Sys2Proof.Machine.execHi91SyncTime payload s
  | .hi91Temperature payload => Sys2Proof.Machine.execHi91Temperature payload s
  | .hi91Pressure payload => Sys2Proof.Machine.execHi91Pressure payload s
  | .hi91SystemTimeMs payload => Sys2Proof.Machine.execHi91SystemTimeMs payload s
  | .hi91Acc payload => Sys2Proof.Machine.execHi91Acc payload s
  | .hi91Gyr payload => Sys2Proof.Machine.execHi91Gyr payload s
  | .hi91Mag payload => Sys2Proof.Machine.execHi91Mag payload s
  | .hi91Roll payload => Sys2Proof.Machine.execHi91Roll payload s
  | .hi91Pitch payload => Sys2Proof.Machine.execHi91Pitch payload s
  | .hi91Yaw payload => Sys2Proof.Machine.execHi91Yaw payload s
  | .hi91Quat payload => Sys2Proof.Machine.execHi91Quat payload s
  | .byte b => Sys2Proof.Machine.execByte b s
  | .byteHunt1 b => Sys2Proof.Machine.execByteHunt1 b s
  | .byteHunt2 b => Sys2Proof.Machine.execByteHunt2 b s
  | .byteLenLo b => Sys2Proof.Machine.execByteLenLo b s
  | .byteLenHi b => Sys2Proof.Machine.execByteLenHi b s
  | .byteCrcLo b => Sys2Proof.Machine.execByteCrcLo b s
  | .byteCrcHi b => Sys2Proof.Machine.execByteCrcHi b s
  | .bytePayload b => Sys2Proof.Machine.execBytePayload b s
  | .finish acc rx len cap => Sys2Proof.Machine.execFinish acc rx len cap s
  | .feedSerial chunk => Sys2Proof.Machine.execFeedSerial chunk s
  | .resetSerial => Sys2Proof.Machine.execResetSerial s

end Sys2Proof.Machine
end

