-- ==== Sys2Proof/Machine/Fetch.lean ====
section
/-! DEFINITION. What the next step runs: the host's next request, as a code (log 2). -/

namespace Sys2Proof.Machine

/-- The operation of a clock edge (R140): `rst` wins over `in_valid`; an edge with neither is idle. -/
def edgeCode (rst inValid : Bool) (inData : Byte) : Option Code :=
  if rst then some ⟨.resetSerial, []⟩
  else if inValid then some ⟨.byte, [inData]⟩
  else none

/-- The code of a request. The stream map is read at the head of `buf` (R40, R92), so a stream request brings no bytes of its
own. -/
def requestCode (buf : List Byte) : Request → Option Code
  | .edge rst inValid inData => edgeCode rst inValid inData
  | .op ⟨.stream, _⟩ => some ⟨.stream, buf⟩
  | .op c => some c

/-- The code the next step runs; none where there is nothing to do but let a clock edge pass. -/
def fetch (s : State) : Option Code :=
  match s.pending with
  | [] => none
  | r :: _ => requestCode s.buf r

/-- The request served is taken off the list. -/
def State.advance (s : State) : State := { s with pending := s.pending.tail }

/-- A clock edge with `rst = 0` and `in_valid = 0` (R140): nothing changes and all pulse outputs are 0. -/
def State.idle (s : State) : State := { s with ports := Ports.quiet }

end Sys2Proof.Machine
end

