-- ==== Sys2Proof/Machine/Step.lean ====
section
/-! DEFINITION. One step: the host's next request is decoded and run, or an idle clock edge passes. -/

namespace Sys2Proof.Machine

/-- One step of the machine. -/
def step (s : State) : Host.Outcome State Fault Refusal :=
  match fetch s with
  | none => .next s.advance.idle
  | some c =>
    match decode c with
    | .ok i => exec i s.advance
    | .error e => .refused (.undecodable e)

/-- The state with a table word as the next thing the block is asked to do: a frame for the tag map is the operand of the
request; a head of `buf` for the stream map is put at the head of `buf` (log 4). -/
def State.withFetchWord (s : State) (nbits w : Nat) : State :=
  let c := codeOfTableWord nbits w
  match c.sel with
  | .stream => { s with buf := c.bytes ++ s.buf.drop c.bytes.length, pending := .op c :: s.pending }
  | _ => { s with pending := .op c :: s.pending }

end Sys2Proof.Machine
end

