-- ==== Sys2Proof/Safety.lean ====
section
/-! DEFINITION. The terms claims are stated in: quiescence, the invariant a step keeps, the host contract, the abstraction
function between the two levels, and runs of several operations. -/

namespace Sys2Proof.Machine

/-- `Q(buf)` (R24): shorter than a header, or the sync pair of a frame that has not wholly arrived. -/
abbrev Quiescent (buf : List Byte) : Prop :=
  buf.length < hdrSize ∨ (SyncAtHead buf ∧ buf.length < frameTotal buf)

/-- What every step keeps, whatever the requests. -/
structure Inv (s : State) : Prop where
  /-- Whenever no FEED is running, `Q(buf)` holds (R24, R102). -/
  quiescent : s.scanning = false → Quiescent s.buf
  /-- `cnt` is 0 to `len_r - 1` while in PAYLOAD, so it never wraps (R29, R144). -/
  count : s.regs.st = .payload → s.regs.cnt < s.regs.lenR
  /-- In LEN_LO the running CRC is that of the sync pair (R147, R160). -/
  syncCrc : s.regs.st = .lenLo → s.regs.crcAcc = crcAfterSync
  /-- At most one of the four pulses is 1 (R142). -/
  pulses : s.ports.pulseCount ≤ 1

/-- A request the host may make (R140, R194, 00_scope.md section 6): a clock edge, RESET, FEED and BYTE at either level. The
other rows are started inside these. -/
def Request.FromHost : Request → Prop
  | .edge _ _ _ => True
  | .op c =>
    match c.sel with
    | .reset => c.bytes = []
    | .resetSerial => c.bytes = []
    | .feed => True
    | .feedSerial => True
    | .byte => c.bytes.length = 1
    | _ => False

/-- The host contract (R195, R196): no FEED is left running, and only the host's own operations are asked for. -/
def HostContract (s : State) : Prop :=
  s.scanning = false ∧ ∀ r ∈ s.pending, Request.FromHost r

/-- Several operations one after the other, stopping at the first that does not answer a next state. -/
def execAll : List Instr → State → Result
  | [], s => .next s
  | i :: is, s =>
    match exec i s with
    | .next t => execAll is t
    | .fault r => .fault r
    | .refused r => .refused r

/-- The bytes of a buffer of fewer than 6 that can still begin a frame: from the least index `j` with `buf[j] = 0x5A` and
(`j + 1 = n` or `buf[j+1] = 0xA5`) (R160). -/
def frameBeginning : List Byte → List Byte
  | [] => []
  | b :: rest =>
    if b = sync1 ∧ (rest = [] ∨ byteAt rest 0 = sync2) then b :: rest else frameBeginning rest

/-- The live registers of a buffer that may hold the beginning `h` of a frame, in fewer than 6 bytes (R160). -/
def AlphaShort (h : List Byte) (r : SerialRegs) : Prop :=
  match h.length with
  | 0 => r.st = .hunt1
  | 1 => r.st = .hunt2
  | 2 => r.st = .lenLo ∧ r.crcAcc = crcAfterSync
  | 3 => r.st = .lenHi ∧ r.lenR.extractLsb' 0 8 = byteAt h 2 ∧ r.crcAcc = crc16 0 (h.take 3)
  | 4 => r.st = .crcLo ∧ r.lenR = le16 h 2 ∧ r.crcAcc = crc16 0 (h.take 4)
  | _ =>
    r.st = .crcHi ∧ r.lenR = le16 h 2 ∧ r.crcAcc = crc16 0 (h.take 4) ∧ r.crcRx.extractLsb' 0 8 = byteAt h 4

/-- `alpha(buf)` (R160): the live registers of the byte-serial realisation are those of `buf`, for a quiescent `buf`. -/
def Alpha (buf : List Byte) (r : SerialRegs) : Prop :=
  if buf.length < hdrSize then AlphaShort (frameBeginning buf) r
  else
    r.st = .payload ∧ r.lenR = le16 buf 2 ∧ r.crcRx = le16 buf 4 ∧ r.cnt.toNat = buf.length - 6 ∧
      r.crcAcc = crc16 0 (buf.take 4 ++ buf.drop 6) ∧
      ∀ k : Fin 76, k.val < buf.length - 6 → r.cap[k] = byteAt buf (6 + k.val)

/-- The event the outputs show (R141, R142). -/
def Ports.event (p : Ports) : Option Event :=
  match p.record with
  | some r => some (.record r)
  | none =>
    if p.sigCrcMismatch then some (.signal .crcMismatch)
    else if p.sigUnknownType then some (.signal .unknownFrameType)
    else if p.sigPayloadTooShort then some (.signal .payloadTooShort)
    else none

/-- The flat vector `P` of 30_encoding.md section 2 as a number: payload byte `k` is its bits `8k+7 : 8k`, for the first 76
bytes. -/
def flatPayload (p : List Byte) : Nat :=
  (p.take hi91MinLen).foldr (fun b rest => b.toNat + 256 * rest) 0

/-- `P[lo+w-1 : lo]` (30_encoding.md section 2). -/
def flatSlice (p : List Byte) (lo w : Nat) : BitVec w := BitVec.ofNat w (flatPayload p / 2 ^ lo)

/-- One round of the software register wider than 16 bits (R83): the test is on bit 15, nothing is masked. -/
def wideRound (c : BitVec 32) : BitVec 32 :=
  if c.getLsbD 15 then (c <<< 1) ^^^ crcPoly.setWidth 32 else c <<< 1

/-- `n` unmasked rounds. -/
def wideRounds : Nat → BitVec 32 → BitVec 32
  | 0, c => c
  | n + 1, c => wideRounds n (wideRound c)

end Sys2Proof.Machine
end

