-- ==== Sys2Proof/Certificates/Slice0/Obligations.lean ====
section
/-! DEFINITION. The statements for the provers. A clause about a field of the model's own (`ev` of RESET, `scanning`, `ret`,
`pending`, `freeCtr`) or about a refusal is the model's choice; the docstring names its log entry. -/

open Sys2Proof Sys2Proof.Machine

/-! ## Reset and host operations -/

/-- R32 and the reset table of 10_state.md section 4. -/
def Obligations.ResetStateIsAsSpecified : Prop :=
  State.reset.buf = [] ∧ Quiescent State.reset.buf ∧ State.reset.regs.st = .hunt1 ∧
    State.reset.ports.recValid = false ∧ State.reset.ports.sigCrcMismatch = false ∧
    State.reset.ports.sigUnknownType = false ∧ State.reset.ports.sigPayloadTooShort = false

/-- RESET (R190): the buffer is emptied, whatever it holds, and nothing else of the machine changes. That the event list of an
earlier FEED goes too is the model's choice (log 5). -/
def Obligations.ResetEmptiesBuffer : Prop :=
  ∀ s : State, s.scanning = false → exec .reset s = .next { s with buf := [], ev := [] }

/-- R54, R196, U1 ("refuse"): no host operation of the buffer level starts while a FEED is running. The name of the refusal is
the model's (log 7). -/
def Obligations.OverlapIsRefused : Prop :=
  ∀ (s : State) (chunk : List Byte), s.scanning = true →
    exec .reset s = .refused .overlap ∧ exec (.feed chunk) s = .refused .overlap ∧
      exec (.append chunk) s = .refused .overlap

/-- R23: a FEED changes nothing but the buffer, and what it leaves and answers is a function of the buffer and the chunk alone. -/
def Obligations.FeedIsPureInBufferAndChunk : Prop :=
  ∀ (s s' : State) (chunk : List Byte), s.scanning = false → s'.scanning = false → s.buf = s'.buf →
    ∃ (buf : List Byte) (ev : List Event),
      exec (.feed chunk) s = .next { s with buf := buf, ev := ev } ∧
      exec (.feed chunk) s' = .next { s' with buf := buf, ev := ev }

/-- FEED (R90) is APPEND and then SCAN until its loop ends: after `k` SCANs and not before, with the event list created empty;
no field but `buf` and `ev` changes. `k` is bounded as R99 says. -/
def Obligations.FeedIsAppendThenScans : Prop :=
  ∀ (s : State) (chunk : List Byte), s.scanning = false →
    ∃ (k : Nat) (t : State),
      exec (.feed chunk) s = .next t ∧ t = { s with buf := t.buf, ev := t.ev } ∧
      1 ≤ k ∧ k ≤ max 1 (s.buf.length + chunk.length - 4) ∧
      execAll (.append chunk :: List.replicate k .scan) { s with ev := [] } = .next t ∧
      ∀ j < k, ∃ u : State,
        execAll (.append chunk :: List.replicate j .scan) { s with ev := [] } = .next u ∧ u.scanning = true

/-- APPEND (R91): the whole chunk at the tail, in order, whatever the lengths. The loop flag is the model's (log 7). -/
def Obligations.AppendPutsWholeChunkAtTail : Prop :=
  ∀ (s : State) (chunk : List Byte), s.scanning = false →
    exec (.append chunk) s = .next { s with buf := s.buf ++ chunk, scanning := true }

/-! ## SCAN and its cases -/

/-- SCAN (R92 to R97), the four cases by the bytes at the head of `buf`, with the length read as R93 says. The loop flag is the
model's (log 7). -/
def Obligations.ScanTakesTheCaseOfTheHead : Prop :=
  ∀ s : State,
    let total := 6 + ((byteAt s.buf 2).toNat + 256 * (byteAt s.buf 3).toNat)
    (s.buf.length < 6 → exec .scan s = .next { s with scanning := false }) ∧
    (6 ≤ s.buf.length → byteAt s.buf 0 = 0x5A → byteAt s.buf 1 = 0xA5 → s.buf.length < total →
      exec .scan s = .next { s with scanning := false }) ∧
    (6 ≤ s.buf.length → byteAt s.buf 0 = 0x5A → byteAt s.buf 1 = 0xA5 → total ≤ s.buf.length →
      exec .scan s =
        .next { s with buf := s.buf.drop total, ev := s.ev ++ [frameEvent (s.buf.take total)] }) ∧
    (6 ≤ s.buf.length → ¬ (byteAt s.buf 0 = 0x5A ∧ byteAt s.buf 1 = 0xA5) →
      exec .scan s = .next { s with buf := s.buf.drop 1 })

/-- EXTRACT, WAIT, RESYNC and SCAN.END (R94 to R97), each where its condition holds. EXTRACT removes exactly `total` bytes whatever
the frame's outcome (R115). The loop flag is the model's (log 7). -/
def Obligations.StreamRowsHaveTheirEffect : Prop :=
  ∀ s : State,
    let total := 6 + ((byteAt s.buf 2).toNat + 256 * (byteAt s.buf 3).toNat)
    (6 ≤ s.buf.length → byteAt s.buf 0 = 0x5A → byteAt s.buf 1 = 0xA5 → total ≤ s.buf.length →
      exec .extract s =
        .next { s with buf := s.buf.drop total, ev := s.ev ++ [frameEvent (s.buf.take total)] }) ∧
    (6 ≤ s.buf.length → byteAt s.buf 0 = 0x5A → byteAt s.buf 1 = 0xA5 → s.buf.length < total →
      exec .wait s = .next { s with scanning := false }) ∧
    (6 ≤ s.buf.length → ¬ (byteAt s.buf 0 = 0x5A ∧ byteAt s.buf 1 = 0xA5) →
      exec .resync s = .next { s with buf := s.buf.drop 1 }) ∧
    (s.buf.length < 6 → exec .scanEnd s = .next { s with scanning := false })

/-- R92 "exactly one of four cases": in every state exactly one of the four rows answers a next state, and it is the one SCAN takes.
That the others are refused by name is the model's choice (log 13). -/
def Obligations.ExactlyOneStreamRowApplies : Prop :=
  ∀ s : State, ∃ i ∈ [Instr.scanEnd, .wait, .extract, .resync],
    exec i s = exec .scan s ∧ (∃ t, exec i s = .next t) ∧
    ∀ j ∈ [Instr.scanEnd, .wait, .extract, .resync], j ≠ i → ∃ m, exec j s = .refused (.notSelected m)

/-- R99: every SCAN ends the loop or shortens the buffer by 1 or by `total >= 6`, and ends it once fewer than 6 bytes are left; a FEED
ends after at most `max(1, n - 4)` SCANs. -/
def Obligations.EveryFeedTerminates : Prop :=
  (∀ s : State, ∃ t, exec .scan s = .next t ∧
    ((t.scanning = false ∧ t.buf = s.buf) ∨ t.buf.length + 1 = s.buf.length ∨
      (6 ≤ frameTotal s.buf ∧ t.buf.length + frameTotal s.buf = s.buf.length))) ∧
  (∀ s : State, s.buf.length < 6 → ∃ t, exec .scan s = .next t ∧ t.scanning = false) ∧
  (∀ (s : State) (chunk : List Byte), s.scanning = false →
    ∃ k ≤ max 1 (s.buf.length + chunk.length - 4), ∃ t,
      execAll (.append chunk :: List.replicate k .scan) s = .next t ∧ t.scanning = false)

/-- R174: the conditions are tested in one fixed order, and the first that applies is the only one a SCAN reports; SyncLoss and
TruncatedFrame are not reported. -/
def Obligations.ScanReportsTheFirstCondition : Prop :=
  ∀ s t : State, exec .scan s = .next t →
    match headCondition s.buf with
    | .syncLoss => t.ev = s.ev ∧ t.buf = s.buf.drop 1
    | .truncatedFrame => t.ev = s.ev ∧ t.buf = s.buf
    | .crcMismatch => t.ev = s.ev ++ [.signal .crcMismatch] ∧ t.buf = s.buf.drop (frameTotal s.buf)
    | .unknownFrameType => t.ev = s.ev ++ [.signal .unknownFrameType] ∧ t.buf = s.buf.drop (frameTotal s.buf)
    | .payloadTooShort => t.ev = s.ev ++ [.signal .payloadTooShort] ∧ t.buf = s.buf.drop (frameTotal s.buf)
    | .none =>
      (s.buf.length < 6 → t.ev = s.ev ∧ t.buf = s.buf) ∧
      (6 ≤ s.buf.length →
        t.ev = s.ev ++ [.record (decodeHi91 ((s.buf.take (frameTotal s.buf)).drop 6))] ∧
          t.buf = s.buf.drop (frameTotal s.buf))

/-! ## FEED as a whole -/

/-- R102: after every FEED `Q(buf)` holds, and where it holds the empty chunk changes no buffer and gives no event. -/
def Obligations.FeedLeavesQuiescentBuffer : Prop :=
  ∀ s : State, s.scanning = false →
    (∀ chunk, ∃ t, exec (.feed chunk) s = .next t ∧ Quiescent t.buf) ∧
    (Quiescent s.buf → exec (.feed []) s = .next { s with ev := [] })

/-- R24: a quiescent buffer holds at most 65540 bytes, and no complete frame at its head. -/
def Obligations.QuiescentBufferIsBounded : Prop :=
  ∀ s : State, Inv s → s.scanning = false →
    s.buf.length ≤ 65540 ∧ ¬ (6 ≤ s.buf.length ∧ SyncAtHead s.buf ∧ frameTotal s.buf ≤ s.buf.length)

/-- R100: FEED(a) then FEED(b) is FEED(a ++ b), from every buffer; hence over a whole session from RESET only the concatenation of the
chunks matters. -/
def Obligations.ChunkBoundariesDoNotMatter : Prop :=
  (∀ (s : State) (a b : List Byte), s.scanning = false →
    ∃ t u v, exec (.feed a) s = .next t ∧ exec (.feed b) t = .next u ∧ exec (.feed (a ++ b)) s = .next v ∧
      v.buf = u.buf ∧ v.ev = t.ev ++ u.ev) ∧
  ∀ chunks : List (List Byte),
    (feedSession [] chunks).1 = (feedBuffer [] chunks.flatten).1 ∧
      (feedSession [] chunks).2.flatten = (feedBuffer [] chunks.flatten).2

/-- R57: the buffer is a contiguous part of the stream fed so far, in arrival order: what is left at its end, both between the FEEDs of a
session and after every SCAN of the FEED running. -/
def Obligations.BufferIsTheEndOfTheStream : Prop :=
  ∀ chunks : List (List Byte),
    (feedSession [] chunks).1 <:+ chunks.flatten ∧
    ∀ (chunk : List Byte) (k : Nat) (s t : State), s.scanning = false → s.buf = (feedSession [] chunks).1 →
      execAll (.append chunk :: List.replicate k .scan) s = .next t → t.buf <:+ (chunks ++ [chunk]).flatten

/-- R95, R98, R203: frames back to back from an empty buffer give one event each, in order, and leave nothing. -/
def Obligations.BackToBackFramesGiveOneEventEach : Prop :=
  ∀ (s : State) (frames : List (List Byte)), s.scanning = false → s.buf = [] → (∀ f ∈ frames, CandidateFrame f) →
    exec (.feed frames.flatten) s = .next { s with ev := frames.map frameEvent }

/-- R107: garbage without an adjacent sync pair in front of a frame costs exactly one RESYNC a byte, and then one EXTRACT takes exactly
the frame. -/
def Obligations.GarbageIsDroppedByteByByte : Prop :=
  ∀ (s : State) (g f : List Byte), s.scanning = false → s.buf = [] → CandidateFrame f →
    (∀ i, ¬ (byteAt g i = 0x5A ∧ byteAt g (i + 1) = 0xA5)) →
    execAll (.append (g ++ f) :: List.replicate g.length .resync) s =
      .next { s with buf := f, scanning := true } ∧
    execAll (.append (g ++ f) :: (List.replicate g.length .resync ++ [.extract])) s =
      .next { s with buf := [], ev := s.ev ++ [frameEvent f], scanning := true } ∧
    exec (.feed (g ++ f)) s = .next { s with ev := [frameEvent f] }

/-- R101 and property S4: a frame cut anywhere gives no event before its last byte, and its one event with it. -/
def Obligations.SplitFrameAppearsWithItsLastByte : Prop :=
  ∀ (s : State) (f : List Byte) (k : Nat), s.scanning = false → s.buf = [] → CandidateFrame f → k < f.length →
    exec (.feed (f.take k)) s = .next { s with buf := f.take k, ev := [] } ∧
    exec (.feed (f.drop k)) { s with buf := f.take k } = .next { s with buf := [], ev := [frameEvent f] }

/-! ## The CRC engine -/

/-- ROUND (R82) by its next-state equations. That the value goes to `ret` is the model's choice (log 6). -/
def Obligations.RoundShiftsAndFoldsBitFifteen : Prop :=
  ∀ (s : State) (c : U16), ∃ c' : U16, exec (.round c) s = .next { s with ret := some (.u16 c') } ∧
    c'.getLsbD 0 = c.getLsbD 15 ∧
    c'.getLsbD 5 = (c.getLsbD 4 ^^ c.getLsbD 15) ∧
    c'.getLsbD 12 = (c.getLsbD 11 ^^ c.getLsbD 15) ∧
    ∀ k, 1 ≤ k → k ≤ 15 → k ≠ 5 → k ≠ 12 → c'.getLsbD k = c.getLsbD (k - 1)

/-- BYTESTEP (R81): the byte into bits 15:8, then ROUND eight times. `ret` is the model's choice (log 6). -/
def Obligations.ByteStepIsEightRounds : Prop :=
  ∀ (s : State) (crc : U16) (b : Byte),
    exec (.byteStep crc b) s =
      .next { s with ret := some (.u16 (crcRound^[8] (crc ^^^ (b.setWidth 16 <<< 8)))) }

/-- CRC16 (R80): the seed for no bytes, and for one byte more at the end one BYTESTEP more on the value so far. `ret` is the model's choice
(log 6). -/
def Obligations.CrcIsByteStepsInOrder : Prop :=
  ∀ (s : State) (seed : U16),
    exec (.crc16 seed []) s = .next { s with ret := some (.u16 seed) } ∧
    ∀ (bytes : List Byte) (b : Byte), ∃ v w : U16,
      exec (.crc16 seed bytes) s = .next { s with ret := some (.u16 v) } ∧
      exec (.byteStep v b) s = .next { s with ret := some (.u16 w) } ∧
      exec (.crc16 seed (bytes ++ [b])) s = .next { s with ret := some (.u16 w) }

/-- R85: the empty sequence returns the seed, and CRCs chain; so the Validator's value needs no concatenation. -/
def Obligations.CrcChains : Prop :=
  (∀ s : U16, crc16 s [] = s) ∧
  (∀ (s : U16) (a b : List Byte), crc16 s (a ++ b) = crc16 (crc16 s a) b) ∧
  ∀ f : List Byte, computedCrc f = crc16 (crc16 0 (f.take 4)) (f.drop 6)

/-- R86: zero bytes leave a zero register zero, so leading zeros do not show; the data covered in a frame begins with 0x5A. -/
def Obligations.LeadingZerosDoNotShow : Prop :=
  crcByteStep 0 0 = 0 ∧ (∀ n, crc16 0 (List.replicate n 0) = 0) ∧
  (∀ (n : Nat) (d : List Byte), crc16 0 (List.replicate n 0 ++ d) = crc16 0 d) ∧
  ∀ f, CandidateFrame f → byteAt (coveredBytes f) 0 = 0x5A

/-- R87: ROUND is linear and a bijection with the inverse the rule gives; BYTESTEP is a bijection in the register and injective in the
byte; hence consequences (a) and (b). -/
def Obligations.CrcIsLinearAndInvertible : Prop :=
  (∀ x y : U16, crcRound (x ^^^ y) = crcRound x ^^^ crcRound y) ∧
  Function.Bijective crcRound ∧
  (∀ c c' : U16, c' = crcRound c →
    c.getLsbD 15 = c'.getLsbD 0 ∧
      ∀ k < 15, c.getLsbD k = (c' ^^^ (if c'.getLsbD 0 then 0x1021 else 0)).getLsbD (k + 1)) ∧
  (∀ b : Byte, Function.Bijective fun crc => crcByteStep crc b) ∧
  (∀ crc : U16, Function.Injective (crcByteStep crc)) ∧
  (∀ (x d : U16) (b : Byte), crcByteStep (x ^^^ d) b = crcByteStep x b ^^^ crcByteStep d 0) ∧
  ∀ (seed : U16) (l m : List Byte) (x y : Byte), x ≠ y →
    crc16 seed (l ++ x :: m) ≠ crc16 seed (l ++ y :: m)

/-- R83: a wider register that is cut to 16 bits once per byte gives the same 16 bits as the register masked in every round. -/
def Obligations.MaskingOncePerByteIsTheSame : Prop :=
  ∀ (c : BitVec 32) (n : Nat), (wideRounds n c).setWidth 16 = crcRounds n (c.setWidth 16)

/-! ## The Validator -/

/-- VALIDATE (R110 to R112): the CRC over offsets 0 to 3 and 6 and up against the bytes 4 and 5, low byte first: DECODE of the payload where they
agree, CrcMismatch where not, one event in each case. -/
def Obligations.ValidateComparesTheCrc : Prop :=
  ∀ (s : State) (f : List Byte), CandidateFrame f →
    (crc16 0 (f.take 4 ++ f.drop 6) = byteAt f 5 ++ byteAt f 4 →
      exec (.validate f) s = exec (.decode (f.drop 6)) s ∧
        ∃ e : Event, exec (.validate f) s = .next { s with ev := s.ev ++ [e] }) ∧
    (crc16 0 (f.take 4 ++ f.drop 6) ≠ byteAt f 5 ++ byteAt f 4 →
      exec (.validate f) s = .next { s with ev := s.ev ++ [.signal .crcMismatch] })

/-- CRC.BAD (R113) raises CrcMismatch and does nothing else; CRC.OK (R114) does what DECODE does with the payload. -/
def Obligations.FrameRowsHaveTheirEffect : Prop :=
  ∀ (s : State) (f : List Byte), CandidateFrame f →
    (computedCrc f ≠ frameCrc f →
      exec (.crcBad f) s = .next { s with ev := s.ev ++ [.signal .crcMismatch] }) ∧
    (computedCrc f = frameCrc f →
      exec (.crcOk f) s = exec (.decode (f.drop 6)) s ∧
        exec (.crcOk f) s = .next { s with ev := s.ev ++ [payloadEvent (f.drop 6)] })

/-- R117: every frame FRAME(p) is a complete candidate frame that takes CRC.OK. -/
def Obligations.EveryWellBuiltFrameValidates : Prop :=
  ∀ (s : State) (p : List Byte), p.length ≤ 65535 →
    CandidateFrame (mkFrame p) ∧ CrcMatches (mkFrame p) ∧
      exec (.validate (mkFrame p)) s = exec (.decode p) s

/-- R116: one payload byte of FRAME(p) altered, or only its CRC field altered, always ends in CrcMismatch; an alteration of several payload
bytes does unless the CRC coincides. -/
def Obligations.AlteredFrameIsMismatched : Prop :=
  ∀ (s : State) (p : List Byte), s.scanning = false → s.buf = [] → p.length ≤ 65535 →
    (∀ (k : Nat) (b : Byte), k < p.length → b ≠ byteAt p k →
      exec (.feed ((mkFrame p).set (6 + k) b)) s = .next { s with ev := [.signal .crcMismatch] }) ∧
    (∀ k : U16, k ≠ frameCrc (mkFrame p) →
      exec (.feed (mkFrameX p k)) s = .next { s with ev := [.signal .crcMismatch] }) ∧
    (∀ q : List Byte, q.length = p.length →
      exec (.feed (mkFrameX q (frameCrc (mkFrame p)))) s =
        .next { s with
          ev := [if frameCrc (mkFrame q) = frameCrc (mkFrame p) then payloadEvent q else .signal .crcMismatch] })

/-! ## The Payload Decoder -/

/-- DECODE (R120, the table of R68): one event, by the length and the first byte. That an empty payload gives UnknownFrameType is the
spec's decision D6 (log 11). -/
def Obligations.DecodeDispatchesOnLengthAndTag : Prop :=
  ∀ (s : State) (p : List Byte),
    exec (.decode []) s = .next { s with ev := s.ev ++ [.signal .unknownFrameType] } ∧
    (1 ≤ p.length → byteAt p 0 ≠ 0x91 →
      exec (.decode p) s = .next { s with ev := s.ev ++ [.signal .unknownFrameType] }) ∧
    (1 ≤ p.length → p.length ≤ 75 → byteAt p 0 = 0x91 →
      exec (.decode p) s = .next { s with ev := s.ev ++ [.signal .payloadTooShort] }) ∧
    (76 ≤ p.length → byteAt p 0 = 0x91 →
      exec (.decode p) s = .next { s with ev := s.ev ++ [.record (decodeHi91 p)] })

/-- EMPTY, HI91, HI91.SHORT and UNKNOWN (R121, R122, R135, R136), each where its row of R68 selects it. The signal of EMPTY is the spec's
decision D6 (log 11). -/
def Obligations.TagRowsHaveTheirEffect : Prop :=
  ∀ (s : State) (p : List Byte),
    exec .empty s = .next { s with ev := s.ev ++ [.signal .unknownFrameType] } ∧
    (1 ≤ p.length → p.length ≤ 65535 → byteAt p 0 ≠ 0x91 →
      exec (.unknown p) s = .next { s with ev := s.ev ++ [.signal .unknownFrameType] }) ∧
    (1 ≤ p.length → p.length ≤ 75 → byteAt p 0 = 0x91 →
      exec (.hi91Short p) s = .next { s with ev := s.ev ++ [.signal .payloadTooShort] }) ∧
    (76 ≤ p.length → p.length ≤ 65535 → byteAt p 0 = 0x91 →
      exec (.hi91 p) s = .next { s with ev := s.ev ++ [.record (decodeHi91 p)] })

/-- The field rows (R123 to R134) return the slices of the flat vector `P` that 30_encoding.md section 2 and the table give. That the value
goes to `ret` is the model's choice (log 6). -/
def Obligations.FieldRowsAreSlicesOfThePayload : Prop :=
  ∀ (s : State) (p : List Byte), Hi91Payload p →
    exec (.hi91SyncTime p) s = .next { s with ret := some (.u16 (flatSlice p 8 16)) } ∧
    exec (.hi91Temperature p) s = .next { s with ret := some (.byte (flatSlice p 24 8)) } ∧
    exec (.hi91Pressure p) s = .next { s with ret := some (.u32 (flatSlice p 32 32)) } ∧
    exec (.hi91SystemTimeMs p) s = .next { s with ret := some (.u32 (flatSlice p 64 32)) } ∧
    exec (.hi91Acc p) s =
      .next { s with ret := some (.triple (flatSlice p 96 32) (flatSlice p 128 32) (flatSlice p 160 32)) } ∧
    exec (.hi91Gyr p) s =
      .next { s with ret := some (.triple (flatSlice p 192 32) (flatSlice p 224 32) (flatSlice p 256 32)) } ∧
    exec (.hi91Mag p) s =
      .next { s with ret := some (.triple (flatSlice p 288 32) (flatSlice p 320 32) (flatSlice p 352 32)) } ∧
    exec (.hi91Roll p) s = .next { s with ret := some (.u32 (flatSlice p 384 32)) } ∧
    exec (.hi91Pitch p) s = .next { s with ret := some (.u32 (flatSlice p 416 32)) } ∧
    exec (.hi91Yaw p) s = .next { s with ret := some (.u32 (flatSlice p 448 32)) } ∧
    exec (.hi91Quat p) s =
      .next { s with
        ret := some (.quad (flatSlice p 480 32) (flatSlice p 512 32) (flatSlice p 544 32) (flatSlice p 576 32)) }

/-- HI91 (R122): one record, every field at its offset of the payload; the payload bytes behind offset 75 do not show. -/
def Obligations.RecordHoldsTheFields : Prop :=
  ∀ (s : State) (p : List Byte), Hi91Payload p →
    ∃ r : DecodedRecord,
      exec (.hi91 p) s = .next { s with ev := s.ev ++ [.record r] } ∧
      r.syncTimeRaw = le16 p 1 ∧ r.temperature = byteAt p 3 ∧ r.pressure = le32 p 4 ∧ r.systemTimeMs = le32 p 8 ∧
      r.acc0 = le32 p 12 ∧ r.acc1 = le32 p 16 ∧ r.acc2 = le32 p 20 ∧
      r.gyr0 = le32 p 24 ∧ r.gyr1 = le32 p 28 ∧ r.gyr2 = le32 p 32 ∧
      r.mag0 = le32 p 36 ∧ r.mag1 = le32 p 40 ∧ r.mag2 = le32 p 44 ∧
      r.roll = le32 p 48 ∧ r.pitch = le32 p 52 ∧ r.yaw = le32 p 56 ∧
      r.quat0 = le32 p 60 ∧ r.quat1 = le32 p 64 ∧ r.quat2 = le32 p 68 ∧ r.quat3 = le32 p 72 ∧
      ∀ q : List Byte, Hi91Payload q → (∀ k, 1 ≤ k → k < 76 → byteAt q k = byteAt p k) →
        exec (.hi91 q) s = exec (.hi91 p) s

/-- R137: a HI91 payload of more than 76 bytes gives the record of its first 76; the rest is counted, removed and covered by the CRC (one
byte of it altered is a mismatch). -/
def Obligations.LongHi91PayloadIsDecodedAsSeventySix : Prop :=
  ∀ (s : State) (p x : List Byte), s.scanning = false → s.buf = [] → p.length = 76 → byteAt p 0 = 0x91 →
    p.length + x.length ≤ 65535 →
    exec (.feed (mkFrame (p ++ x))) s = .next { s with ev := [.record (decodeHi91 p)] } ∧
    ∀ (k : Nat) (b : Byte), k < x.length → b ≠ byteAt x k →
      exec (.feed ((mkFrame (p ++ x)).set (82 + k) b)) s = .next { s with ev := [.signal .crcMismatch] }

/-- R139, the round-trip law: FRAME(HI91(f)) fed to an empty buffer gives exactly the record f, bit for bit, and leaves nothing. -/
def Obligations.FeedOfEncodedRecordReturnsIt : Prop :=
  ∀ (s : State) (f : DecodedRecord), s.scanning = false → s.buf = [] →
    exec (.feed (mkFrame (mkHi91 f))) s = .next { s with ev := [.record f] }

/-- R43: in every multi-byte read, and so in every multi-byte field of the wire format, the byte at the lower offset is the less
significant. -/
def Obligations.FieldsAreLittleEndian : Prop :=
  (∀ (s : List Byte) (o : Nat),
    (le16 s o).toNat = (byteAt s o).toNat + 256 * (byteAt s (o + 1)).toNat ∧
    (le32 s o).toNat =
      (byteAt s o).toNat + 2 ^ 8 * (byteAt s (o + 1)).toNat + 2 ^ 16 * (byteAt s (o + 2)).toNat +
        2 ^ 24 * (byteAt s (o + 3)).toNat ∧
    (le32 s o).extractLsb' 0 8 = byteAt s o ∧ (le32 s o).extractLsb' 24 8 = byteAt s (o + 3)) ∧
  (∀ f : List Byte,
    frameLength f = (byteAt f 2).toNat + 256 * (byteAt f 3).toNat ∧
    (frameCrc f).toNat = (byteAt f 4).toNat + 256 * (byteAt f 5).toNat) ∧
  ∀ p : List Byte,
    let r := decodeHi91 p
    r.syncTimeRaw = le16 p 1 ∧
    ∀ x ∈ [(r.pressure, 4), (r.systemTimeMs, 8), (r.acc0, 12), (r.acc1, 16), (r.acc2, 20), (r.gyr0, 24), (r.gyr1, 28),
        (r.gyr2, 32), (r.mag0, 36), (r.mag1, 40), (r.mag2, 44), (r.roll, 48), (r.pitch, 52), (r.yaw, 56), (r.quat0, 60),
        (r.quat1, 64), (r.quat2, 68), (r.quat3, 72)], x.1 = le32 p x.2

/-! ## The byte-serial realisation -/

/-- BYTE (R145) dispatches on `st` alone. -/
def Obligations.ByteDispatchesOnState : Prop :=
  ∀ (s : State) (b : Byte), (∃ t, exec (.byte b) s = .next t) ∧
    exec (.byte b) s =
      (match s.regs.st with
      | .hunt1 => exec (.byteHunt1 b) s
      | .hunt2 => exec (.byteHunt2 b) s
      | .lenLo => exec (.byteLenLo b) s
      | .lenHi => exec (.byteLenHi b) s
      | .crcLo => exec (.byteCrcLo b) s
      | .crcHi => exec (.byteCrcHi b) s
      | .payload => exec (.bytePayload b) s)

/-- States HUNT1 and HUNT2 (R146, R147): only `st`, and `crc_acc` on a match, change; no pulse. -/
def Obligations.HuntStatesFindTheSyncPair : Prop :=
  ∀ (s : State) (b : Byte),
    (s.regs.st = .hunt1 → b = 0x5A →
      exec (.byteHunt1 b) s = .next { s with regs := { s.regs with st := .hunt2 }, ports := Ports.quiet }) ∧
    (s.regs.st = .hunt1 → b ≠ 0x5A → exec (.byteHunt1 b) s = .next { s with ports := Ports.quiet }) ∧
    (s.regs.st = .hunt2 → b = 0xA5 →
      exec (.byteHunt2 b) s =
        .next { s with
          regs := { s.regs with st := .lenLo, crcAcc := crc16 0 [0x5A, 0xA5] }
          ports := Ports.quiet }) ∧
    (s.regs.st = .hunt2 → b = 0x5A → exec (.byteHunt2 b) s = .next { s with ports := Ports.quiet }) ∧
    (s.regs.st = .hunt2 → b ≠ 0xA5 → b ≠ 0x5A →
      exec (.byteHunt2 b) s = .next { s with regs := { s.regs with st := .hunt1 }, ports := Ports.quiet })

/-- States LEN_LO, LEN_HI and CRC_LO (R148 to R150): each writes its half of a register and keeps the other half; the CRC runs over the
length bytes and not over the CRC byte; no pulse. -/
def Obligations.HeaderStatesLoadTheirBytes : Prop :=
  ∀ (s : State) (b : Byte),
    (s.regs.st = .lenLo → ∃ v : U16, v.extractLsb' 0 8 = b ∧ v.extractLsb' 8 8 = s.regs.lenR.extractLsb' 8 8 ∧
      exec (.byteLenLo b) s =
        .next { s with
          regs := { s.regs with st := .lenHi, lenR := v, crcAcc := crcByteStep s.regs.crcAcc b }
          ports := Ports.quiet }) ∧
    (s.regs.st = .lenHi → ∃ v : U16, v.extractLsb' 8 8 = b ∧ v.extractLsb' 0 8 = s.regs.lenR.extractLsb' 0 8 ∧
      exec (.byteLenHi b) s =
        .next { s with
          regs := { s.regs with st := .crcLo, lenR := v, crcAcc := crcByteStep s.regs.crcAcc b }
          ports := Ports.quiet }) ∧
    (s.regs.st = .crcLo → ∃ v : U16, v.extractLsb' 0 8 = b ∧ v.extractLsb' 8 8 = s.regs.crcRx.extractLsb' 8 8 ∧
      exec (.byteCrcLo b) s =
        .next { s with regs := { s.regs with st := .crcHi, crcRx := v }, ports := Ports.quiet })

/-- State CRC_HI (R151): the other half of `crc_rx`, `cnt <- 0`; a frame of length 0 is finished with this byte (the effect of FINISH on the
registers so written), any other goes on in PAYLOAD. -/
def Obligations.CrcHiFinishesEmptyFrames : Prop :=
  ∀ (s : State) (b : Byte), s.regs.st = .crcHi →
    ∃ v : U16, v.extractLsb' 8 8 = b ∧ v.extractLsb' 0 8 = s.regs.crcRx.extractLsb' 0 8 ∧
      (s.regs.lenR = 0 →
        (∃ t, exec (.byteCrcHi b) s = .next t) ∧
        exec (.byteCrcHi b) s =
          exec (.finish s.regs.crcAcc v 0 s.regs.cap) { s with regs := { s.regs with crcRx := v, cnt := 0 } }) ∧
      (s.regs.lenR ≠ 0 →
        exec (.byteCrcHi b) s =
          .next { s with
            regs := { s.regs with st := .payload, crcRx := v, cnt := 0 }
            ports := Ports.quiet })

/-- State PAYLOAD (R152): one capture byte is written while `cnt < 76` and every other capture byte kept; the CRC and `cnt` advance; the last
byte finishes the frame (the effect of FINISH on the registers so written). -/
def Obligations.PayloadStateCapturesAndCounts : Prop :=
  ∀ (s : State) (b : Byte), s.regs.st = .payload →
    ∃ cap : Capture,
      (∀ k : Fin 76, cap[k] = if k.val = s.regs.cnt.toNat then b else s.regs.cap[k]) ∧
      (s.regs.cnt + 1 = s.regs.lenR →
        (∃ t, exec (.bytePayload b) s = .next t) ∧
        exec (.bytePayload b) s =
          exec (.finish (crcByteStep s.regs.crcAcc b) s.regs.crcRx s.regs.lenR cap)
            { s with
              regs := { s.regs with cap := cap, crcAcc := crcByteStep s.regs.crcAcc b, cnt := s.regs.cnt + 1 } }) ∧
      (s.regs.cnt + 1 ≠ s.regs.lenR →
        exec (.bytePayload b) s =
          .next { s with
            regs := { s.regs with cap := cap, crcAcc := crcByteStep s.regs.crcAcc b, cnt := s.regs.cnt + 1 }
            ports := Ports.quiet })

/-- FINISH (R153): `st <- HUNT1` and nothing else of the registers; exactly one pulse, by the tests in their order. That an empty frame gives
UnknownFrameType is the spec's decision D6 (log 11). -/
def Obligations.FinishGivesOneVerdict : Prop :=
  ∀ (s : State) (acc rx len : U16) (cap : Capture),
    ∃ p : Ports, exec (.finish acc rx len cap) s = .next { s with regs := { s.regs with st := .hunt1 }, ports := p } ∧
      p.pulseCount = 1 ∧
      (acc ≠ rx → p.sigCrcMismatch = true) ∧
      (acc = rx → len = 0 → p.sigUnknownType = true) ∧
      (acc = rx → len ≠ 0 → cap[0] ≠ 0x91 → p.sigUnknownType = true) ∧
      (acc = rx → len ≠ 0 → cap[0] = 0x91 → len.toNat < 76 → p.sigPayloadTooShort = true) ∧
      (acc = rx → cap[0] = 0x91 → 76 ≤ len.toNat → p.record = some (decodeHi91 cap.toList))

/-- A byte-serial state row runs in its own state only. The refusal is the model's choice (log 13). -/
def Obligations.StateRowsNeedTheirState : Prop :=
  ∀ (s : State) (b : Byte),
    (s.regs.st ≠ .hunt1 → exec (.byteHunt1 b) s = .refused (.notSelected "BYTE.HUNT1")) ∧
    (s.regs.st ≠ .hunt2 → exec (.byteHunt2 b) s = .refused (.notSelected "BYTE.HUNT2")) ∧
    (s.regs.st ≠ .lenLo → exec (.byteLenLo b) s = .refused (.notSelected "BYTE.LEN_LO")) ∧
    (s.regs.st ≠ .lenHi → exec (.byteLenHi b) s = .refused (.notSelected "BYTE.LEN_HI")) ∧
    (s.regs.st ≠ .crcLo → exec (.byteCrcLo b) s = .refused (.notSelected "BYTE.CRC_LO")) ∧
    (s.regs.st ≠ .crcHi → exec (.byteCrcHi b) s = .refused (.notSelected "BYTE.CRC_HI")) ∧
    (s.regs.st ≠ .payload → exec (.bytePayload b) s = .refused (.notSelected "BYTE.PAYLOAD"))

/-- FEED.serial (R157): zero steps for the empty chunk, with an empty event list; one more byte is one more BYTE, and the event list gains
the event that BYTE's outputs show. Where the event list is kept is the model's choice (log 5). -/
def Obligations.SerialFeedIsBytesInOrder : Prop :=
  (∀ s : State, exec (.feedSerial []) s = .next { s with serialEv := [] }) ∧
  ∀ (s : State) (chunk : List Byte) (b : Byte), ∃ t u : State,
    exec (.feedSerial chunk) s = .next t ∧ exec (.byte b) t = .next u ∧
      exec (.feedSerial (chunk ++ [b])) s = .next { u with serialEv := t.serialEv ++ u.ports.event.toList } ∧
      t = { s with regs := t.regs, ports := t.ports, serialEv := t.serialEv }

/-- RESET.serial (R158): `st` is HUNT1 and the four pulses are 0; the other registers are anything. That the event list is emptied and the
counter of free values advances is the model's choice (logs 5, 10). -/
def Obligations.SerialResetReturnsToHunt : Prop :=
  ∀ s : State, ∃ r : SerialRegs, r.st = .hunt1 ∧
    exec .resetSerial s =
      .next { s with regs := r, ports := Ports.quiet, serialEv := [], freeCtr := s.freeCtr + 1 }

/-- R159: from HUNT1 no result depends on what the other registers hold. -/
def Obligations.SerialRegistersAreWrittenBeforeRead : Prop :=
  ∀ (s s' : State) (chunk : List Byte), s.regs.st = .hunt1 → s'.regs.st = .hunt1 →
    ∃ t t', exec (.feedSerial chunk) s = .next t ∧ exec (.feedSerial chunk) s' = .next t' ∧
      t.serialEv = t'.serialEv ∧ t.regs.st = t'.regs.st ∧ (chunk ≠ [] → t.ports = t'.ports)

/-- R161: where the live registers are `alpha(buf)`, FEED at the two levels gives the same event list and leaves `alpha(buf')`; so from RESET,
over a whole session, each FEED gives the same events at both levels, whatever the dead registers hold. -/
def Obligations.SerialRefinesBufferLevel : Prop :=
  (∀ (s : State) (chunk : List Byte), s.scanning = false → Quiescent s.buf → Alpha s.buf s.regs →
    ∃ t u, exec (.feed chunk) s = .next t ∧ exec (.feedSerial chunk) s = .next u ∧
      u.serialEv = t.ev ∧ Alpha t.buf u.regs) ∧
  ∀ (r : SerialRegs) (chunks : List (List Byte)), r.st = .hunt1 →
    (serialSession r chunks).2 = (feedSession [] chunks).2

/-- R160: `alpha(buf)` is what BYTE over the bytes of a quiescent `buf` reaches from HUNT1, with no event on the way. -/
def Obligations.AlphaIsReachedByItsBytes : Prop :=
  ∀ (r : SerialRegs) (buf : List Byte), r.st = .hunt1 → Quiescent buf →
    (serialFeed r buf).2 = [] ∧ Alpha buf (serialFeed r buf).1

/-- R22 and log 1: a buffer-level operation touches nothing of the byte-serial realisation, and a byte-serial one nothing of the buffer
level. -/
def Obligations.TheTwoLevelsShareNothing : Prop :=
  ∀ (i : Instr) (s t : State), exec i s = .next t →
    ((encode i).sel.format ≠ .serial → i ≠ .resetSerial → (∀ chunk, i ≠ .feedSerial chunk) →
      t.regs = s.regs ∧ t.ports = s.ports ∧ t.serialEv = s.serialEv ∧ t.freeCtr = s.freeCtr) ∧
    ((encode i).sel.format = .serial ∨ i = .resetSerial ∨ (∃ chunk, i = .feedSerial chunk) →
      t.buf = s.buf ∧ t.ev = s.ev ∧ t.scanning = s.scanning ∧ t.ret = s.ret)

/-! ## Decode and encode -/

/-- Decoding an encoded well-formed operation gives it back, with every operand at every value. -/
def Obligations.DecodeOfEncodeIsTheOperation : Prop :=
  ∀ i : Instr, i.WellFormed → decode (encode i) = .ok i

/-- What decodes is well formed. -/
def Obligations.DecodedOperationsAreWellFormed : Prop :=
  ∀ (c : Code) (i : Instr), decode c = .ok i → i.WellFormed

/-- A code of a selector under which each byte string has one meaning is the encoding of what it decodes to. (The stream map reads a window
of which the operation keeps no byte, and the tag, DECODE and field rows do not keep the CRC field.) -/
def Obligations.EncodeOfDecodeIsTheCode : Prop :=
  ∀ (c : Code) (i : Instr), decode c = .ok i →
    c.sel ≠ .stream → c.sel ≠ .tag → c.sel ≠ .decode → c.sel.format ≠ .hi91Field → encode i = c

/-- R60, R68 and the table's columns: an operation decoded from bytes has its row's `match` under its row's `mask` in the window of those
bytes. -/
def Obligations.DecodedBytesMatchTheTable : Prop :=
  ∀ (c : Code) (i : Instr), decode c = .ok i → window c.bytes &&& i.tableMask = i.tableMatch

/-- R68: the maps are total and select by the table's conditions: every byte string is in one stream case, every candidate frame in one
frame case, and every candidate frame in one tag case. -/
def Obligations.MapsSelectByTheTable : Prop :=
  (∀ b : List Byte,
    (b.length < 6 → decode ⟨.stream, b⟩ = .ok .scanEnd) ∧
    (6 ≤ b.length → ¬ (byteAt b 0 = 0x5A ∧ byteAt b 1 = 0xA5) → decode ⟨.stream, b⟩ = .ok .resync) ∧
    (6 ≤ b.length → byteAt b 0 = 0x5A → byteAt b 1 = 0xA5 → b.length < 6 + (le16 b 2).toNat →
      decode ⟨.stream, b⟩ = .ok .wait) ∧
    (6 ≤ b.length → byteAt b 0 = 0x5A → byteAt b 1 = 0xA5 → 6 + (le16 b 2).toNat ≤ b.length →
      decode ⟨.stream, b⟩ = .ok .extract)) ∧
  ∀ f : List Byte, 6 ≤ f.length → byteAt f 0 = 0x5A → byteAt f 1 = 0xA5 → f.length = 6 + (le16 f 2).toNat →
    (crc16 0 (f.take 4 ++ f.drop 6) ≠ le16 f 4 → decode ⟨.verdict, f⟩ = .ok (.crcBad f)) ∧
    (crc16 0 (f.take 4 ++ f.drop 6) = le16 f 4 → decode ⟨.verdict, f⟩ = .ok (.crcOk f)) ∧
    ((le16 f 2).toNat = 0 → decode ⟨.tag, f⟩ = .ok .empty) ∧
    (76 ≤ (le16 f 2).toNat → byteAt f 6 = 0x91 → decode ⟨.tag, f⟩ = .ok (.hi91 (f.drop 6))) ∧
    (1 ≤ (le16 f 2).toNat → (le16 f 2).toNat ≤ 75 → byteAt f 6 = 0x91 →
      decode ⟨.tag, f⟩ = .ok (.hi91Short (f.drop 6))) ∧
    (1 ≤ (le16 f 2).toNat → byteAt f 6 ≠ 0x91 → decode ⟨.tag, f⟩ = .ok (.unknown (f.drop 6)))

/-- A few words and codes written out from the spec decode to the operations they stand for. -/
def Obligations.SampleWordsDecode : Prop :=
  decodeTableWord 56 0x00000000000000 = some .resync ∧
  decodeTableWord 56 0x5AA50000000000 = some .empty ∧
  decodeTableWord 56 0x5AA50100000091 = some (.hi91Short [0x91]) ∧
  decodeTableWord 56 0x5AA50100000092 = some (.unknown [0x92]) ∧
  decode ⟨.verdict, [0x5A, 0xA5, 0x01, 0x00, 0x9F, 0x32, 0x00]⟩ =
    .ok (.crcOk [0x5A, 0xA5, 0x01, 0x00, 0x9F, 0x32, 0x00]) ∧
  decode ⟨.verdict, [0x5A, 0xA5, 0x01, 0x00, 0x9F, 0x32, 0x01]⟩ =
    .ok (.crcBad [0x5A, 0xA5, 0x01, 0x00, 0x9F, 0x32, 0x01]) ∧
  decode ⟨.stream, [0x5A, 0xA5, 0x01, 0x00, 0x9F, 0x32]⟩ = .ok .wait

/-! ## The machine -/

/-- A step runs the operation its request decodes to, on the state with the request taken off; a request that decodes to nothing is refused
with its reason, and with nothing to run an idle clock edge passes (R140). The request list is the model's (log 2). -/
def Obligations.StepRunsTheDecodedOperation : Prop :=
  ∀ s : State,
    (∀ c i, fetch s = some c → decode c = .ok i → step s = exec i { s with pending := s.pending.tail }) ∧
    (∀ c e, fetch s = some c → decode c = .error e → step s = .refused (.undecodable e)) ∧
    (fetch s = none → step s = .next { s with pending := s.pending.tail, ports := Ports.quiet })

/-- R140: what a clock edge does, by `rst`, then `in_valid`. -/
def Obligations.ClockEdgeServesItsInputs : Prop :=
  ∀ (s : State) (rest : List Request) (v : Bool) (d : Byte),
    step { s with pending := .edge true v d :: rest } = exec .resetSerial { s with pending := rest } ∧
    step { s with pending := .edge false true d :: rest } = exec (.byte d) { s with pending := rest } ∧
    step { s with pending := .edge false false d :: rest } = .next { s with pending := rest, ports := Ports.quiet }

/-- The invariant holds after reset. -/
def Obligations.InvHoldsAtReset : Prop := Inv State.reset

/-- The invariant (R24, R29, R142, R147) is kept by every step, whatever is asked for. -/
def Obligations.StepKeepsInv : Prop :=
  ∀ s t : State, Inv s → step s = .next t → Inv t

/-- R172, R178: under the host contract (R195, R196) no step faults or refuses, and the contract and the invariant go on holding. -/
def Obligations.StepNeverStopsUnderContract : Prop :=
  ∀ s : State, Inv s → HostContract s → ∃ t, step s = .next t ∧ Inv t ∧ HostContract t
end

