-- ==== Sys2Proof/Laws/State.lean ====
section
/-! SUPPORT. One lemma per field per named update of the state, true by definition. -/

namespace Sys2Proof.Machine

variable (s : State)

/-! ### appendTail -/

@[simp] theorem appendTail_buf (t : List Byte) : (s.appendTail t).buf = s.buf ++ t := rfl
@[simp] theorem appendTail_ev (t : List Byte) : (s.appendTail t).ev = s.ev := rfl
@[simp] theorem appendTail_scanning (t : List Byte) : (s.appendTail t).scanning = s.scanning := rfl
@[simp] theorem appendTail_regs (t : List Byte) : (s.appendTail t).regs = s.regs := rfl
@[simp] theorem appendTail_ports (t : List Byte) : (s.appendTail t).ports = s.ports := rfl
@[simp] theorem appendTail_serialEv (t : List Byte) : (s.appendTail t).serialEv = s.serialEv := rfl
@[simp] theorem appendTail_ret (t : List Byte) : (s.appendTail t).ret = s.ret := rfl
@[simp] theorem appendTail_pending (t : List Byte) : (s.appendTail t).pending = s.pending := rfl
@[simp] theorem appendTail_freeCtr (t : List Byte) : (s.appendTail t).freeCtr = s.freeCtr := rfl

/-! ### dropHead -/

@[simp] theorem dropHead_buf (n : Nat) : (s.dropHead n).buf = s.buf.drop n := rfl
@[simp] theorem dropHead_ev (n : Nat) : (s.dropHead n).ev = s.ev := rfl
@[simp] theorem dropHead_scanning (n : Nat) : (s.dropHead n).scanning = s.scanning := rfl
@[simp] theorem dropHead_regs (n : Nat) : (s.dropHead n).regs = s.regs := rfl
@[simp] theorem dropHead_ports (n : Nat) : (s.dropHead n).ports = s.ports := rfl
@[simp] theorem dropHead_serialEv (n : Nat) : (s.dropHead n).serialEv = s.serialEv := rfl
@[simp] theorem dropHead_ret (n : Nat) : (s.dropHead n).ret = s.ret := rfl
@[simp] theorem dropHead_pending (n : Nat) : (s.dropHead n).pending = s.pending := rfl
@[simp] theorem dropHead_freeCtr (n : Nat) : (s.dropHead n).freeCtr = s.freeCtr := rfl

/-! ### putEvent -/

@[simp] theorem putEvent_buf (e : Event) : (s.putEvent e).buf = s.buf := rfl
@[simp] theorem putEvent_ev (e : Event) : (s.putEvent e).ev = s.ev ++ [e] := rfl
@[simp] theorem putEvent_scanning (e : Event) : (s.putEvent e).scanning = s.scanning := rfl
@[simp] theorem putEvent_regs (e : Event) : (s.putEvent e).regs = s.regs := rfl
@[simp] theorem putEvent_ports (e : Event) : (s.putEvent e).ports = s.ports := rfl
@[simp] theorem putEvent_serialEv (e : Event) : (s.putEvent e).serialEv = s.serialEv := rfl
@[simp] theorem putEvent_ret (e : Event) : (s.putEvent e).ret = s.ret := rfl
@[simp] theorem putEvent_pending (e : Event) : (s.putEvent e).pending = s.pending := rfl
@[simp] theorem putEvent_freeCtr (e : Event) : (s.putEvent e).freeCtr = s.freeCtr := rfl

/-! ### raise -/

@[simp] theorem raise_buf (x : Signal) : (s.raise x).buf = s.buf := rfl
@[simp] theorem raise_ev (x : Signal) : (s.raise x).ev = s.ev ++ [.signal x] := rfl
@[simp] theorem raise_scanning (x : Signal) : (s.raise x).scanning = s.scanning := rfl
@[simp] theorem raise_regs (x : Signal) : (s.raise x).regs = s.regs := rfl
@[simp] theorem raise_ports (x : Signal) : (s.raise x).ports = s.ports := rfl
@[simp] theorem raise_serialEv (x : Signal) : (s.raise x).serialEv = s.serialEv := rfl
@[simp] theorem raise_ret (x : Signal) : (s.raise x).ret = s.ret := rfl
@[simp] theorem raise_pending (x : Signal) : (s.raise x).pending = s.pending := rfl
@[simp] theorem raise_freeCtr (x : Signal) : (s.raise x).freeCtr = s.freeCtr := rfl

/-! ### emitRecord -/

@[simp] theorem emitRecord_buf (r : DecodedRecord) : (s.emitRecord r).buf = s.buf := rfl
@[simp] theorem emitRecord_ev (r : DecodedRecord) : (s.emitRecord r).ev = s.ev ++ [.record r] := rfl
@[simp] theorem emitRecord_scanning (r : DecodedRecord) : (s.emitRecord r).scanning = s.scanning := rfl
@[simp] theorem emitRecord_regs (r : DecodedRecord) : (s.emitRecord r).regs = s.regs := rfl
@[simp] theorem emitRecord_ports (r : DecodedRecord) : (s.emitRecord r).ports = s.ports := rfl
@[simp] theorem emitRecord_serialEv (r : DecodedRecord) : (s.emitRecord r).serialEv = s.serialEv := rfl
@[simp] theorem emitRecord_ret (r : DecodedRecord) : (s.emitRecord r).ret = s.ret := rfl
@[simp] theorem emitRecord_pending (r : DecodedRecord) : (s.emitRecord r).pending = s.pending := rfl
@[simp] theorem emitRecord_freeCtr (r : DecodedRecord) : (s.emitRecord r).freeCtr = s.freeCtr := rfl

/-! ### returns -/

@[simp] theorem returns_buf (v : FnValue) : (s.returns v).buf = s.buf := rfl
@[simp] theorem returns_ev (v : FnValue) : (s.returns v).ev = s.ev := rfl
@[simp] theorem returns_scanning (v : FnValue) : (s.returns v).scanning = s.scanning := rfl
@[simp] theorem returns_regs (v : FnValue) : (s.returns v).regs = s.regs := rfl
@[simp] theorem returns_ports (v : FnValue) : (s.returns v).ports = s.ports := rfl
@[simp] theorem returns_serialEv (v : FnValue) : (s.returns v).serialEv = s.serialEv := rfl
@[simp] theorem returns_ret (v : FnValue) : (s.returns v).ret = some v := rfl
@[simp] theorem returns_pending (v : FnValue) : (s.returns v).pending = s.pending := rfl
@[simp] theorem returns_freeCtr (v : FnValue) : (s.returns v).freeCtr = s.freeCtr := rfl

/-! ### endLoop -/

@[simp] theorem endLoop_buf : (s.endLoop).buf = s.buf := rfl
@[simp] theorem endLoop_ev : (s.endLoop).ev = s.ev := rfl
@[simp] theorem endLoop_scanning : (s.endLoop).scanning = false := rfl
@[simp] theorem endLoop_regs : (s.endLoop).regs = s.regs := rfl
@[simp] theorem endLoop_ports : (s.endLoop).ports = s.ports := rfl
@[simp] theorem endLoop_serialEv : (s.endLoop).serialEv = s.serialEv := rfl
@[simp] theorem endLoop_ret : (s.endLoop).ret = s.ret := rfl
@[simp] theorem endLoop_pending : (s.endLoop).pending = s.pending := rfl
@[simp] theorem endLoop_freeCtr : (s.endLoop).freeCtr = s.freeCtr := rfl

/-! ### extractHead -/

@[simp] theorem extractHead_buf : (s.extractHead).buf = s.buf.drop (frameTotal s.buf) := rfl
@[simp] theorem extractHead_ev : (s.extractHead).ev = s.ev ++ [frameEvent (s.buf.take (frameTotal s.buf))] := rfl
@[simp] theorem extractHead_scanning : (s.extractHead).scanning = s.scanning := rfl
@[simp] theorem extractHead_regs : (s.extractHead).regs = s.regs := rfl
@[simp] theorem extractHead_ports : (s.extractHead).ports = s.ports := rfl
@[simp] theorem extractHead_serialEv : (s.extractHead).serialEv = s.serialEv := rfl
@[simp] theorem extractHead_ret : (s.extractHead).ret = s.ret := rfl
@[simp] theorem extractHead_pending : (s.extractHead).pending = s.pending := rfl
@[simp] theorem extractHead_freeCtr : (s.extractHead).freeCtr = s.freeCtr := rfl

/-! ### latch -/

@[simp] theorem latch_buf (o : SerialRegs × Option Event) : (s.latch o).buf = s.buf := rfl
@[simp] theorem latch_ev (o : SerialRegs × Option Event) : (s.latch o).ev = s.ev := rfl
@[simp] theorem latch_scanning (o : SerialRegs × Option Event) : (s.latch o).scanning = s.scanning := rfl
@[simp] theorem latch_regs (o : SerialRegs × Option Event) : (s.latch o).regs = o.1 := rfl
@[simp] theorem latch_ports (o : SerialRegs × Option Event) : (s.latch o).ports = Ports.ofEvent o.2 := rfl
@[simp] theorem latch_serialEv (o : SerialRegs × Option Event) : (s.latch o).serialEv = s.serialEv := rfl
@[simp] theorem latch_ret (o : SerialRegs × Option Event) : (s.latch o).ret = s.ret := rfl
@[simp] theorem latch_pending (o : SerialRegs × Option Event) : (s.latch o).pending = s.pending := rfl
@[simp] theorem latch_freeCtr (o : SerialRegs × Option Event) : (s.latch o).freeCtr = s.freeCtr := rfl

/-! ### advance -/

@[simp] theorem advance_buf : (s.advance).buf = s.buf := rfl
@[simp] theorem advance_ev : (s.advance).ev = s.ev := rfl
@[simp] theorem advance_scanning : (s.advance).scanning = s.scanning := rfl
@[simp] theorem advance_regs : (s.advance).regs = s.regs := rfl
@[simp] theorem advance_ports : (s.advance).ports = s.ports := rfl
@[simp] theorem advance_serialEv : (s.advance).serialEv = s.serialEv := rfl
@[simp] theorem advance_ret : (s.advance).ret = s.ret := rfl
@[simp] theorem advance_pending : (s.advance).pending = s.pending.tail := rfl
@[simp] theorem advance_freeCtr : (s.advance).freeCtr = s.freeCtr := rfl

/-! ### idle -/

@[simp] theorem idle_buf : (s.idle).buf = s.buf := rfl
@[simp] theorem idle_ev : (s.idle).ev = s.ev := rfl
@[simp] theorem idle_scanning : (s.idle).scanning = s.scanning := rfl
@[simp] theorem idle_regs : (s.idle).regs = s.regs := rfl
@[simp] theorem idle_ports : (s.idle).ports = Ports.quiet := rfl
@[simp] theorem idle_serialEv : (s.idle).serialEv = s.serialEv := rfl
@[simp] theorem idle_ret : (s.idle).ret = s.ret := rfl
@[simp] theorem idle_pending : (s.idle).pending = s.pending := rfl
@[simp] theorem idle_freeCtr : (s.idle).freeCtr = s.freeCtr := rfl

end Sys2Proof.Machine
end

