-- ==== Sys2Proof/Laws/Ops.lean ====
section
/-! SUPPORT. What each shared operation can do, said once. -/

namespace Sys2Proof.Machine

/-! ## Outcomes -/

/-- A guarded meaning answers a next state exactly where its row is selected. -/
theorem whenSelected_eq_next {c : Bool} {m : String} {t u : State} :
    whenSelected c m t = .next u ↔ c = true ∧ t = u := by
  cases c <;> simp [whenSelected]

/-- A meaning that starts a host operation answers a next state exactly where no FEED is running. -/
theorem whenQuiescent_eq_next {s t u : State} :
    whenQuiescent s t = .next u ↔ s.scanning = false ∧ t = u := by
  cases h : s.scanning <;> simp [whenQuiescent, h]

theorem whenSelected_of {p : Prop} [Decidable p] {m : String} {t : State} (h : p) :
    whenSelected (decide p) m t = .next t := by
  simp [whenSelected, h]

theorem whenSelected_of_not {p : Prop} [Decidable p] {m : String} {t : State} (h : ¬ p) :
    whenSelected (decide p) m t = .refused (.notSelected m) := by
  simp [whenSelected, h]

theorem whenQuiescent_of {s t : State} (h : s.scanning = false) : whenQuiescent s t = .next t := by
  simp [whenQuiescent, h]

/-- No operation faults (R172, R178): `Fault` has no value. -/
theorem exec_ne_fault (i : Instr) (s : State) (f : Fault) : exec i s ≠ .fault f := nomatch f

/-! ## The stream map (R92) -/

theorem scanCase_eq_scanEnd {buf : List Byte} : scanCase buf = .scanEnd ↔ buf.length < hdrSize := by
  unfold scanCase
  split_ifs <;> simp_all

theorem scanCase_eq_wait {buf : List Byte} :
    scanCase buf = .wait ↔ hdrSize ≤ buf.length ∧ SyncAtHead buf ∧ buf.length < frameTotal buf := by
  unfold scanCase
  split_ifs <;> simp_all
  assumption

theorem scanCase_eq_extract {buf : List Byte} :
    scanCase buf = .extract ↔ hdrSize ≤ buf.length ∧ SyncAtHead buf ∧ frameTotal buf ≤ buf.length := by
  unfold scanCase
  split_ifs <;> simp_all
  assumption

theorem scanCase_eq_resync {buf : List Byte} :
    scanCase buf = .resync ↔ hdrSize ≤ buf.length ∧ ¬ SyncAtHead buf := by
  unfold scanCase
  split_ifs <;> simp_all

theorem hdrSize_le_frameTotal (s : List Byte) : hdrSize ≤ frameTotal s := Nat.le_add_right _ _

theorem frameTotal_le (s : List Byte) : frameTotal s ≤ 65541 := by
  have := (le16 s lenOff).isLt
  simp only [frameTotal, frameLength, hdrSize]
  omega

/-! ## Reads of a sequence that grows at its tail -/

theorem byteAt_append_left {s t : List Byte} {o : Nat} (h : o < s.length) : byteAt (s ++ t) o = byteAt s o := by
  simp [byteAt, List.getD_eq_getElem?_getD, List.getElem?_append_left h]

theorem byteAt_take {s : List Byte} {n o : Nat} (h : o < n) : byteAt (s.take n) o = byteAt s o := by
  simp [byteAt, List.getD_eq_getElem?_getD, h]

theorem byteAt_drop (s : List Byte) (n o : Nat) : byteAt (s.drop n) o = byteAt s (n + o) := by
  simp [byteAt, List.getD_eq_getElem?_getD, List.getElem?_drop]

theorem syncAtHead_append {s t : List Byte} (h : hdrSize ≤ s.length) : SyncAtHead (s ++ t) ↔ SyncAtHead s := by
  simp only [hdrSize] at h
  rw [SyncAtHead, SyncAtHead, byteAt_append_left (by omega), byteAt_append_left (by omega)]

theorem frameTotal_append {s t : List Byte} (h : hdrSize ≤ s.length) : frameTotal (s ++ t) = frameTotal s := by
  simp only [hdrSize] at h
  simp only [frameTotal, frameLength, le16, lenOff]
  rw [byteAt_append_left (by omega), byteAt_append_left (by omega)]

/-- A case that goes on is the same case when bytes are appended (R56, R100). -/
theorem scanCase_append_resync {s t : List Byte} (h : scanCase s = .resync) : scanCase (s ++ t) = .resync := by
  rw [scanCase_eq_resync] at h ⊢
  exact ⟨by simp only [List.length_append]; omega, by rw [syncAtHead_append h.1]; exact h.2⟩

theorem scanCase_append_extract {s t : List Byte} (h : scanCase s = .extract) : scanCase (s ++ t) = .extract := by
  rw [scanCase_eq_extract] at h ⊢
  exact ⟨by simp only [List.length_append]; omega, (syncAtHead_append h.1).2 h.2.1, by
    rw [frameTotal_append h.1]; simp only [List.length_append]; omega⟩

/-! ## The loop of FEED (R90) -/

/-- Any fuel above the buffer's length gives the same run. -/
theorem scanLoop_fuel {m n : Nat} {buf : List Byte} (hm : buf.length < m) (hn : buf.length < n) :
    scanLoop m buf = scanLoop n buf := by
  induction m generalizing n buf with
  | zero => omega
  | succ m ih =>
    cases n with
    | zero => omega
    | succ n =>
      simp only [scanLoop]
      cases hc : scanCase buf with
      | scanEnd => rfl
      | wait => rfl
      | extract =>
        obtain ⟨h6, _, ht⟩ := scanCase_eq_extract.1 hc
        have := hdrSize_le_frameTotal buf
        simp only [hdrSize] at *
        simp only [ih (n := n) (buf := buf.drop (frameTotal buf)) (by simp; omega) (by simp; omega)]
      | resync =>
        obtain ⟨h6, _⟩ := scanCase_eq_resync.1 hc
        simp only [hdrSize] at *
        exact ih (by simp; omega) (by simp; omega)

/-- The loop run to its end. -/
def scanAll (buf : List Byte) : List Byte × List Event := scanLoop (buf.length + 1) buf

theorem feedBuffer_eq_scanAll (buf chunk : List Byte) : feedBuffer buf chunk = scanAll (buf ++ chunk) := rfl

theorem scanAll_stop {buf : List Byte} (h : scanCase buf = .scanEnd ∨ scanCase buf = .wait) :
    scanAll buf = (buf, []) := by
  rcases h with h | h <;> simp [scanAll, scanLoop, h]

theorem scanAll_resync {buf : List Byte} (h : scanCase buf = .resync) : scanAll buf = scanAll (buf.drop 1) := by
  obtain ⟨h6, _⟩ := scanCase_eq_resync.1 h
  simp only [hdrSize] at h6
  have e : scanAll buf = scanLoop buf.length (buf.drop 1) := by simp only [scanAll, scanLoop, h]
  rw [e]
  exact scanLoop_fuel (by simp; omega) (by simp)

theorem scanAll_extract {buf : List Byte} (h : scanCase buf = .extract) :
    scanAll buf =
      ((scanAll (buf.drop (frameTotal buf))).1,
        frameEvent (buf.take (frameTotal buf)) :: (scanAll (buf.drop (frameTotal buf))).2) := by
  obtain ⟨h6, _, ht⟩ := scanCase_eq_extract.1 h
  have h6' := hdrSize_le_frameTotal buf
  simp only [hdrSize] at h6 h6'
  have e : scanLoop buf.length (buf.drop (frameTotal buf)) = scanAll (buf.drop (frameTotal buf)) :=
    scanLoop_fuel (by simp; omega) (by simp)
  have e' : scanAll buf =
      ((scanLoop buf.length (buf.drop (frameTotal buf))).1,
        frameEvent (buf.take (frameTotal buf)) :: (scanLoop buf.length (buf.drop (frameTotal buf))).2) := by
    simp only [scanAll, scanLoop, h]
  rw [e', e]

/-! ## The CRC engine -/

theorem crc16_nil (seed : U16) : crc16 seed [] = seed := rfl

theorem crc16_cons (seed : U16) (b : Byte) (bs : List Byte) :
    crc16 seed (b :: bs) = crc16 (crcByteStep seed b) bs := rfl

/-! ## The byte-serial level -/

theorem serialFeed_nil (r : SerialRegs) : serialFeed r [] = (r, []) := rfl

theorem serialFeed_append (r : SerialRegs) (a b : List Byte) :
    serialFeed r (a ++ b) =
      ((serialFeed (serialFeed r a).1 b).1, (serialFeed r a).2 ++ (serialFeed (serialFeed r a).1 b).2) := by
  induction a generalizing r with
  | nil => simp [serialFeed]
  | cons x xs ih => simp [serialFeed, ih, List.append_assoc]

/-- The bytes of a chunk over the state are the chunk's bytes over the registers (R157), and touch nothing of the buffer
level. -/
theorem acceptBytes_spec (chunk : List Byte) (s : State) :
    State.acceptBytes chunk s =
      { s with
        regs := (serialFeed s.regs chunk).1
        ports := (State.acceptBytes chunk s).ports
        serialEv := s.serialEv ++ (serialFeed s.regs chunk).2 } := by
  induction chunk generalizing s with
  | nil => simp [State.acceptBytes, serialFeed]
  | cons b bs ih =>
    rw [State.acceptBytes, ih]
    simp [serialFeed, State.latch, List.append_assoc]

/-- The outputs of an event show that event (R141, R142). -/
@[simp] theorem event_ofEvent (e : Option Event) : (Ports.ofEvent e).event = e := by
  rcases e with _ | r | x
  · rfl
  · rfl
  · cases x <;> rfl

/-- One pulse for an event, none for none (R142). -/
@[simp] theorem pulseCount_ofEvent (e : Option Event) : (Ports.ofEvent e).pulseCount = e.toList.length := by
  rcases e with _ | r | x
  · rfl
  · rfl
  · cases x <;> rfl

end Sys2Proof.Machine
end

