-- ==== Sys2Proof/Laws/PerInstr.lean ====
section
/-! SUPPORT. Statements made per operation: one family, one lemma per constructor. -/

namespace Sys2Proof.Laws

/-- The encoder selects an operation in the way its row's `format` column says. -/
def CodeFormat.Statement (i : Instr) : Prop := (encode i).sel.format = i.format

theorem CodeFormat.reset : CodeFormat.Statement .reset := rfl
theorem CodeFormat.feed (c : List Byte) : CodeFormat.Statement (.feed c) := rfl
theorem CodeFormat.append (c : List Byte) : CodeFormat.Statement (.append c) := rfl
theorem CodeFormat.scan : CodeFormat.Statement .scan := rfl
theorem CodeFormat.extract : CodeFormat.Statement .extract := rfl
theorem CodeFormat.wait : CodeFormat.Statement .wait := rfl
theorem CodeFormat.resync : CodeFormat.Statement .resync := rfl
theorem CodeFormat.scanEnd : CodeFormat.Statement .scanEnd := rfl
theorem CodeFormat.crc16 (s : U16) (b : List Byte) : CodeFormat.Statement (.crc16 s b) := rfl
theorem CodeFormat.byteStep (c : U16) (b : Byte) : CodeFormat.Statement (.byteStep c b) := rfl
theorem CodeFormat.round (c : U16) : CodeFormat.Statement (.round c) := rfl
theorem CodeFormat.validate (f : List Byte) : CodeFormat.Statement (.validate f) := rfl
theorem CodeFormat.crcBad (f : List Byte) : CodeFormat.Statement (.crcBad f) := rfl
theorem CodeFormat.crcOk (f : List Byte) : CodeFormat.Statement (.crcOk f) := rfl
theorem CodeFormat.decode (p : List Byte) : CodeFormat.Statement (.decode p) := rfl
theorem CodeFormat.empty : CodeFormat.Statement .empty := rfl
theorem CodeFormat.hi91 (p : List Byte) : CodeFormat.Statement (.hi91 p) := rfl
theorem CodeFormat.hi91Short (p : List Byte) : CodeFormat.Statement (.hi91Short p) := rfl
theorem CodeFormat.unknown (p : List Byte) : CodeFormat.Statement (.unknown p) := rfl
theorem CodeFormat.hi91SyncTime (p : List Byte) : CodeFormat.Statement (.hi91SyncTime p) := rfl
theorem CodeFormat.hi91Temperature (p : List Byte) : CodeFormat.Statement (.hi91Temperature p) := rfl
theorem CodeFormat.hi91Pressure (p : List Byte) : CodeFormat.Statement (.hi91Pressure p) := rfl
theorem CodeFormat.hi91SystemTimeMs (p : List Byte) : CodeFormat.Statement (.hi91SystemTimeMs p) := rfl
theorem CodeFormat.hi91Acc (p : List Byte) : CodeFormat.Statement (.hi91Acc p) := rfl
theorem CodeFormat.hi91Gyr (p : List Byte) : CodeFormat.Statement (.hi91Gyr p) := rfl
theorem CodeFormat.hi91Mag (p : List Byte) : CodeFormat.Statement (.hi91Mag p) := rfl
theorem CodeFormat.hi91Roll (p : List Byte) : CodeFormat.Statement (.hi91Roll p) := rfl
theorem CodeFormat.hi91Pitch (p : List Byte) : CodeFormat.Statement (.hi91Pitch p) := rfl
theorem CodeFormat.hi91Yaw (p : List Byte) : CodeFormat.Statement (.hi91Yaw p) := rfl
theorem CodeFormat.hi91Quat (p : List Byte) : CodeFormat.Statement (.hi91Quat p) := rfl
theorem CodeFormat.byte (b : Byte) : CodeFormat.Statement (.byte b) := rfl
theorem CodeFormat.byteHunt1 (b : Byte) : CodeFormat.Statement (.byteHunt1 b) := rfl
theorem CodeFormat.byteHunt2 (b : Byte) : CodeFormat.Statement (.byteHunt2 b) := rfl
theorem CodeFormat.byteLenLo (b : Byte) : CodeFormat.Statement (.byteLenLo b) := rfl
theorem CodeFormat.byteLenHi (b : Byte) : CodeFormat.Statement (.byteLenHi b) := rfl
theorem CodeFormat.byteCrcLo (b : Byte) : CodeFormat.Statement (.byteCrcLo b) := rfl
theorem CodeFormat.byteCrcHi (b : Byte) : CodeFormat.Statement (.byteCrcHi b) := rfl
theorem CodeFormat.bytePayload (b : Byte) : CodeFormat.Statement (.bytePayload b) := rfl
theorem CodeFormat.finish (a r l : U16) (c : Capture) : CodeFormat.Statement (.finish a r l c) := rfl
theorem CodeFormat.feedSerial (c : List Byte) : CodeFormat.Statement (.feedSerial c) := rfl
theorem CodeFormat.resetSerial : CodeFormat.Statement .resetSerial := rfl

end Sys2Proof.Laws
end

