-- ==== Sys2Proof/Tests/Slice0.lean ====
section
/-! SUPPORT. The model's own tests. Expected values are those of 95_test_vectors.md and of the worked examples of the rules, never the model's
own answers. The witnesses at the end show, for each statement with hypotheses, a concrete state and operands that meet them. -/

namespace Sys2Proof.Tests

set_option Elab.async false

open Machine

/-- The answer is a next state with the property. -/
def answers (r : Result) (p : State → Bool) : Bool :=
  match r with
  | .next t => p t
  | .fault _ => false
  | .refused _ => false

/-- The answer is that refusal. -/
def refuses (r : Result) (x : Refusal) : Bool :=
  match r with
  | .next _ => false
  | .fault _ => false
  | .refused y => decide (y = x)

/-- The reset state with a buffer. -/
def withBuf (buf : List Byte) : State := { State.reset with buf := buf }

/-- The reset state with the byte-serial machine in a state. -/
def inState (st : SerialSt) : State := { State.reset with regs := { State.reset.regs with st := st } }

/-! ## Named byte strings of 95_test_vectors.md -/

def zFrame : List Byte := [0x5A, 0xA5, 0x00, 0x00, 0xFC, 0x4B]
def u1Frame : List Byte := [0x5A, 0xA5, 0x01, 0x00, 0x9F, 0x32, 0x00]
def s1Frame : List Byte := [0x5A, 0xA5, 0x01, 0x00, 0x07, 0xA1, 0x91]
def u1Bad : List Byte := [0x5A, 0xA5, 0x01, 0x00, 0x9F, 0x32, 0x01]

/-- The payload of frame B (43_payload_decoder.md, 95_test_vectors.md section 4.2). -/
def bPayload : List Byte :=
  [0x91, 0x34, 0x12, 0xE7, 0x80, 0xE6, 0xC5, 0x47, 0x04, 0x03, 0x02, 0x01] ++
  [0x00, 0x00, 0x00, 0x3F, 0x00, 0x00, 0x80, 0xBF, 0x00, 0x00, 0x80, 0x3E] ++
  [0x00, 0x00, 0xC0, 0x3F, 0x00, 0x00, 0x20, 0xC0, 0x00, 0x00, 0xC8, 0x42] ++
  [0x00, 0x00, 0x00, 0xBE, 0x00, 0x00, 0x80, 0x41, 0x00, 0x00, 0x40, 0xC2] ++
  [0x00, 0x00, 0xB4, 0x42, 0x00, 0x00, 0x34, 0xC2, 0x00, 0x00, 0x34, 0x43] ++
  [0x00, 0x00, 0x80, 0x3F, 0x00, 0x00, 0x00, 0x00, 0x00, 0x00, 0x00, 0x80, 0x00, 0x00, 0x00, 0x3F]

/-- Frame B with its CRC field 1D 07. -/
def bFrame : List Byte := [0x5A, 0xA5, 0x4C, 0x00, 0x1D, 0x07] ++ bPayload

/-- Record B, the table of 95_test_vectors.md section 4.2. -/
def bRecord : DecodedRecord where
  syncTimeRaw := 0x1234
  temperature := 0xE7
  pressure := 0x47C5E680
  systemTimeMs := 0x01020304
  acc0 := 0x3F000000
  acc1 := 0xBF800000
  acc2 := 0x3E800000
  gyr0 := 0x3FC00000
  gyr1 := 0xC0200000
  gyr2 := 0x42C80000
  mag0 := 0xBE000000
  mag1 := 0x41800000
  mag2 := 0xC2400000
  roll := 0x42B40000
  pitch := 0xC2340000
  yaw := 0x43340000
  quat0 := 0x3F800000
  quat1 := 0x00000000
  quat2 := 0x80000000
  quat3 := 0x3F000000

/-- A record of zeros, and frame A of section 4.1: roll, pitch and yaw set, CRC 0x837F. -/
def zeroRecord : DecodedRecord := decodeHi91 []
def aRecord : DecodedRecord := { zeroRecord with roll := 0x3F800000, pitch := 0x40000000, yaw := 0x40400000 }
def aFrame : List Byte := mkFrameX (mkHi91 aRecord) 0x837F

/-! ## WellFormed refuses -/

theorem test_wf_validate_short : ¬ (Instr.validate [0x5A, 0xA5, 0x00]).WellFormed := by
  unfold Instr.WellFormed; decide
theorem test_wf_validate_sync : ¬ (Instr.validate [0xA5, 0x5A, 0x00, 0x00, 0xFC, 0x4B]).WellFormed := by
  unfold Instr.WellFormed; decide
theorem test_wf_validate_length : ¬ (Instr.validate [0x5A, 0xA5, 0x01, 0x00, 0xFC, 0x4B]).WellFormed := by
  unfold Instr.WellFormed; decide
theorem test_wf_crcBad_on_good : ¬ (Instr.crcBad u1Frame).WellFormed := by
  unfold Instr.WellFormed; decide +kernel
theorem test_wf_crcOk_on_bad : ¬ (Instr.crcOk u1Bad).WellFormed := by
  unfold Instr.WellFormed; decide +kernel
theorem test_wf_decode_too_long : ¬ (Instr.decode (List.replicate 65536 0)).WellFormed := by
  show ¬ (List.replicate 65536 (0 : Byte)).length ≤ maxLen
  rw [List.length_replicate]
  decide
theorem test_wf_hi91_short : ¬ (Instr.hi91 (0x91 :: List.replicate 74 0)).WellFormed := by
  unfold Instr.WellFormed; decide +kernel
theorem test_wf_hi91_tag : ¬ (Instr.hi91 (0x90 :: List.replicate 75 0)).WellFormed := by
  unfold Instr.WellFormed; decide +kernel
theorem test_wf_hi91Short_long : ¬ (Instr.hi91Short (0x91 :: List.replicate 75 0)).WellFormed := by
  unfold Instr.WellFormed; decide +kernel
theorem test_wf_hi91Short_empty : ¬ (Instr.hi91Short []).WellFormed := by
  unfold Instr.WellFormed; decide
theorem test_wf_unknown_tag : ¬ (Instr.unknown [0x91]).WellFormed := by
  unfold Instr.WellFormed; decide
theorem test_wf_unknown_empty : ¬ (Instr.unknown []).WellFormed := by
  unfold Instr.WellFormed; decide
theorem test_wf_field_short : ¬ (Instr.hi91Roll [0x91]).WellFormed := by
  unfold Instr.WellFormed; decide

/-! ## Decoding, every constructor: words written out from 30_encoding.md R60, R68 and, where the spec gives no bits, from log 3 -/

/-- The code decodes to the operation. -/
def decodesTo (c : Code) (i : Instr) : Bool :=
  match decode c with
  | .ok j => decide (j = i)
  | .error _ => false

/-- The code is rejected with that reason. -/
def rejects (c : Code) (e : DecodeError) : Bool :=
  match decode c with
  | .ok _ => false
  | .error x => decide (x = e)

theorem test_decode_host_rows :
    decodesTo ⟨.reset, []⟩ .reset ∧ decodesTo ⟨.feed, [0x5A]⟩ (.feed [0x5A]) ∧
    decodesTo ⟨.feedSerial, []⟩ (.feedSerial []) ∧ decodesTo ⟨.resetSerial, []⟩ .resetSerial := by decide
theorem test_decode_feed_steps :
    decodesTo ⟨.append, [0x01, 0x00]⟩ (.append [0x01, 0x00]) ∧ decodesTo ⟨.scan, []⟩ .scan := by decide
theorem test_decode_stream_rows :
    decodesTo ⟨.stream, [0x5A, 0xA5, 0x01, 0x00, 0x9F]⟩ .scanEnd ∧
    decodesTo ⟨.stream, [0x5A, 0xA5, 0x01, 0x00, 0x9F, 0x32]⟩ .wait ∧
    decodesTo ⟨.stream, u1Frame⟩ .extract ∧ decodesTo ⟨.stream, u1Frame ++ [0x77]⟩ .extract ∧
    decodesTo ⟨.stream, 0x5A :: u1Frame⟩ .resync ∧
    decodesTo ⟨.stream, [0x5A, 0xA5, 0xFF, 0xFF, 0x33, 0xC9, 0x00]⟩ .wait := by decide
theorem test_decode_function_rows :
    decodesTo ⟨.crc16, [0xCD, 0xAB, 0x31]⟩ (.crc16 0xABCD [0x31]) ∧
    decodesTo ⟨.byteStep, [0xBF, 0xFB, 0xA5]⟩ (.byteStep 0xFBBF 0xA5) ∧
    decodesTo ⟨.round, [0x00, 0x80]⟩ (.round 0x8000) := by decide
theorem test_decode_frame_rows :
    decodesTo ⟨.validate, u1Frame⟩ (.validate u1Frame) ∧
    decodesTo ⟨.verdict, u1Frame⟩ (.crcOk u1Frame) ∧ decodesTo ⟨.verdict, u1Bad⟩ (.crcBad u1Bad) := by decide +kernel
theorem test_decode_tag_rows :
    decodesTo ⟨.decode, u1Frame⟩ (.decode [0x00]) ∧ decodesTo ⟨.tag, zFrame⟩ .empty ∧
    decodesTo ⟨.tag, u1Frame⟩ (.unknown [0x00]) ∧ decodesTo ⟨.tag, s1Frame⟩ (.hi91Short [0x91]) ∧
    decodesTo ⟨.tag, bFrame⟩ (.hi91 bPayload) := by decide +kernel
theorem test_decode_field_rows :
    decodesTo ⟨.field .syncTime, bFrame⟩ (.hi91SyncTime bPayload) ∧
    decodesTo ⟨.field .temperature, bFrame⟩ (.hi91Temperature bPayload) ∧
    decodesTo ⟨.field .pressure, bFrame⟩ (.hi91Pressure bPayload) ∧
    decodesTo ⟨.field .systemTimeMs, bFrame⟩ (.hi91SystemTimeMs bPayload) ∧
    decodesTo ⟨.field .acc, bFrame⟩ (.hi91Acc bPayload) ∧ decodesTo ⟨.field .gyr, bFrame⟩ (.hi91Gyr bPayload) ∧
    decodesTo ⟨.field .mag, bFrame⟩ (.hi91Mag bPayload) ∧ decodesTo ⟨.field .roll, bFrame⟩ (.hi91Roll bPayload) ∧
    decodesTo ⟨.field .pitch, bFrame⟩ (.hi91Pitch bPayload) ∧ decodesTo ⟨.field .yaw, bFrame⟩ (.hi91Yaw bPayload) ∧
    decodesTo ⟨.field .quat, bFrame⟩ (.hi91Quat bPayload) := by decide +kernel
theorem test_decode_serial_rows :
    decodesTo ⟨.byte, [0x5A]⟩ (.byte 0x5A) ∧ decodesTo ⟨.state .hunt1, [0x5A]⟩ (.byteHunt1 0x5A) ∧
    decodesTo ⟨.state .hunt2, [0xA5]⟩ (.byteHunt2 0xA5) ∧ decodesTo ⟨.state .lenLo, [0x4C]⟩ (.byteLenLo 0x4C) ∧
    decodesTo ⟨.state .lenHi, [0x00]⟩ (.byteLenHi 0x00) ∧ decodesTo ⟨.state .crcLo, [0x7F]⟩ (.byteCrcLo 0x7F) ∧
    decodesTo ⟨.state .crcHi, [0x83]⟩ (.byteCrcHi 0x83) ∧
    decodesTo ⟨.state .payload, [0x91]⟩ (.bytePayload 0x91) := by decide
theorem test_decode_finish :
    decodesTo ⟨.finish, [0x9F, 0x32, 0x07, 0xA1, 0x01, 0x00] ++ List.replicate 76 0x91⟩
      (.finish 0x329F 0xA107 0x0001 (Vector.replicate 76 0x91)) := by decide +kernel
theorem test_decode_rejects :
    rejects ⟨.reset, [0x00]⟩ .operandLength ∧ rejects ⟨.round, [0x00]⟩ .operandLength ∧
    rejects ⟨.byte, []⟩ .operandLength ∧ rejects ⟨.finish, []⟩ .operandLength ∧
    rejects ⟨.validate, zFrame ++ [0x00]⟩ .notAFrame ∧ rejects ⟨.tag, [0x5A, 0xA5, 0x01, 0x00, 0x9F, 0x32]⟩ .notAFrame ∧
    rejects ⟨.field .yaw, s1Frame⟩ .notHi91 := by decide
theorem test_table_words :
    decodeTableWord 56 0x00000000000000 = some .resync ∧ decodeTableWord 56 0x5AA50000000091 = some .empty ∧
    decodeTableWord 56 0x5AA54C00000091 = some (.hi91 (0x91 :: List.replicate 75 0)) ∧
    decodeTableWord 56 0x5AA54B00000091 = some (.hi91Short (0x91 :: List.replicate 74 0)) := by decide +kernel

/-! ## The CRC engine (40_crc_engine.md, 95_test_vectors.md section 2) -/

theorem test_round_80 : answers (exec (.round 0x8000) State.reset) (fun t => t.ret = some (.u16 0x1021)) := by decide
theorem test_round_f167 : answers (exec (.round 0x7821) State.reset) (fun t => t.ret = some (.u16 0xF042)) := by decide
theorem test_byteStep_5a : answers (exec (.byteStep 0 0x5A) State.reset) (fun t => t.ret = some (.u16 0xFBBF)) := by decide
theorem test_byteStep_a5 :
    answers (exec (.byteStep 0xFBBF 0xA5) State.reset) (fun t => t.ret = some (.u16 0x043B)) := by decide
theorem test_crc16_check_value :
    answers (exec (.crc16 0 [0x31, 0x32, 0x33, 0x34, 0x35, 0x36, 0x37, 0x38, 0x39]) State.reset)
      (fun t => t.ret = some (.u16 0x31C3)) := by decide +kernel
theorem test_crc16_seed_ffff :
    answers (exec (.crc16 0xFFFF [0x31, 0x32, 0x33, 0x34, 0x35, 0x36, 0x37, 0x38, 0x39]) State.reset)
      (fun t => t.ret = some (.u16 0x29B1)) := by decide +kernel

/-! ## FEED and its steps (95_test_vectors.md section 5.1, programs P3, P6, P7) -/

/-- P3: a false sync swallows a frame. -/
theorem test_feed_false_sync :
    answers (exec (.feed ([0x5A, 0xA5, 0x03, 0x00] ++ u1Frame)) State.reset)
      (fun t => t.buf = [0x32, 0x00] ∧ t.ev = [.signal .crcMismatch]) := by decide +kernel
/-- P7, first call, and V-ASM-10: several frames in one chunk, then a header left waiting. -/
theorem test_feed_many :
    answers (exec (.feed (s1Frame ++ zFrame ++ aFrame.take 6)) State.reset)
      (fun t => t.buf = aFrame.take 6 ∧ t.ev = [.signal .payloadTooShort, .signal .unknownFrameType]) := by decide +kernel
theorem test_append : answers (exec (.append [0x01, 0x00]) (withBuf [0x5A, 0xA5]))
    (fun t => t.buf = [0x5A, 0xA5, 0x01, 0x00]) := by decide
/-- R92: a head of 5A 5A is RESYNC. -/
theorem test_scan_overlap : answers (exec .scan (withBuf [0x5A, 0x5A, 0xA5, 0x01, 0x00, 0x9F]))
    (fun t => t.buf = [0x5A, 0xA5, 0x01, 0x00, 0x9F]) := by decide
/-- R95: the byte behind the frame stays. -/
theorem test_extract : answers (exec .extract (withBuf (u1Frame ++ [0x77])))
    (fun t => t.buf = [0x77] ∧ t.ev = [.signal .unknownFrameType]) := by decide +kernel
theorem test_extract_incomplete : refuses (exec .extract (withBuf (u1Frame.take 6))) (.notSelected "EXTRACT") := by decide
/-- R94. -/
theorem test_wait : answers (exec .wait (withBuf (u1Frame.take 6))) (fun t => t.buf = u1Frame.take 6 ∧ t.ev = []) := by decide
/-- R96. -/
theorem test_resync : answers (exec .resync (withBuf (0x00 :: zFrame))) (fun t => t.buf = zFrame ∧ t.ev = []) := by decide
/-- R97: five bytes are not scanned. -/
theorem test_scanEnd : answers (exec .scanEnd (withBuf [0x01, 0x02, 0x03, 0x04, 0x05]))
    (fun t => t.buf = [0x01, 0x02, 0x03, 0x04, 0x05]) := by decide
/-- R190: a partial frame is dropped silently. -/
theorem test_reset : answers (exec .reset (withBuf [0x5A, 0xA5, 0x4C, 0x00, 0x7F, 0x83, 0x91]))
    (fun t => t.buf = [] ∧ t.ev = []) := by decide

/-! ## The Validator (R110 to R114, 95_test_vectors.md section 5.2) -/

theorem test_validate_bad : answers (exec (.validate u1Bad) State.reset) (fun t => t.ev = [.signal .crcMismatch]) := by
  decide +kernel
/-- V-VAL-5: the CRC field read big-endian does not match. -/
theorem test_validate_swapped :
    answers (exec (.validate [0x5A, 0xA5, 0x01, 0x00, 0x32, 0x9F, 0x00]) State.reset)
      (fun t => t.ev = [.signal .crcMismatch]) := by decide +kernel
theorem test_crcBad : answers (exec (.crcBad u1Bad) State.reset) (fun t => t.ev = [.signal .crcMismatch]) := by
  decide +kernel
theorem test_crcOk : answers (exec (.crcOk s1Frame) State.reset) (fun t => t.ev = [.signal .payloadTooShort]) := by
  decide +kernel

/-! ## The Payload Decoder (95_test_vectors.md sections 4 and 5.3) -/

theorem test_decode_neighbour_tag : answers (exec (.decode [0x90, 0xFF]) State.reset)
    (fun t => t.ev = [.signal .unknownFrameType]) := by decide
theorem test_decode_75 : answers (exec (.decode (0x91 :: List.replicate 74 0)) State.reset)
    (fun t => t.ev = [.signal .payloadTooShort]) := by decide +kernel
theorem test_empty : answers (exec .empty State.reset) (fun t => t.ev = [.signal .unknownFrameType]) := by decide
theorem test_hi91_b : answers (exec (.hi91 bPayload) State.reset) (fun t => t.ev = [.record bRecord]) := by decide +kernel
theorem test_hi91_long : answers (exec (.hi91 (0x91 :: List.replicate 75 0 ++ [0xEE])) State.reset)
    (fun t => t.ev = [.record zeroRecord]) := by decide +kernel
theorem test_hi91Short : answers (exec (.hi91Short [0x91]) State.reset) (fun t => t.ev = [.signal .payloadTooShort]) := by
  decide
theorem test_unknown : answers (exec (.unknown [0x92, 0x01, 0x02]) State.reset)
    (fun t => t.ev = [.signal .unknownFrameType]) := by decide
set_option maxRecDepth 100000 in
theorem test_feed_b : answers (exec (.feed bFrame) State.reset) (fun t => t.buf = [] ∧ t.ev = [.record bRecord]) := by
  decide +kernel
set_option maxRecDepth 100000 in
theorem test_feed_a : answers (exec (.feed aFrame) State.reset) (fun t => t.buf = [] ∧ t.ev = [.record aRecord]) := by
  decide +kernel
theorem test_syncTime : answers (exec (.hi91SyncTime bPayload) State.reset) (fun t => t.ret = some (.u16 0x1234)) := by
  decide +kernel
theorem test_temperature : answers (exec (.hi91Temperature bPayload) State.reset) (fun t => t.ret = some (.byte 0xE7)) := by
  decide +kernel
theorem test_pressure : answers (exec (.hi91Pressure bPayload) State.reset) (fun t => t.ret = some (.u32 0x47C5E680)) := by
  decide +kernel
theorem test_systemTimeMs :
    answers (exec (.hi91SystemTimeMs bPayload) State.reset) (fun t => t.ret = some (.u32 0x01020304)) := by decide +kernel
theorem test_acc : answers (exec (.hi91Acc bPayload) State.reset)
    (fun t => t.ret = some (.triple 0x3F000000 0xBF800000 0x3E800000)) := by decide +kernel
theorem test_gyr : answers (exec (.hi91Gyr bPayload) State.reset)
    (fun t => t.ret = some (.triple 0x3FC00000 0xC0200000 0x42C80000)) := by decide +kernel
theorem test_mag : answers (exec (.hi91Mag bPayload) State.reset)
    (fun t => t.ret = some (.triple 0xBE000000 0x41800000 0xC2400000)) := by decide +kernel
theorem test_roll : answers (exec (.hi91Roll bPayload) State.reset) (fun t => t.ret = some (.u32 0x42B40000)) := by
  decide +kernel
theorem test_pitch : answers (exec (.hi91Pitch bPayload) State.reset) (fun t => t.ret = some (.u32 0xC2340000)) := by
  decide +kernel
theorem test_yaw : answers (exec (.hi91Yaw bPayload) State.reset) (fun t => t.ret = some (.u32 0x43340000)) := by
  decide +kernel
theorem test_quat : answers (exec (.hi91Quat bPayload) State.reset)
    (fun t => t.ret = some (.quad 0x3F800000 0x00000000 0x80000000 0x3F000000)) := by decide +kernel
theorem test_sval8 : sval8 0x00 = 0 ∧ sval8 0x7F = 127 ∧ sval8 0x80 = -128 ∧ sval8 0xE7 = -25 ∧ sval8 0xFF = -1 := by decide
theorem test_sync_seconds : syncTimeSeconds bRecord = 4660 / 1000 := rfl

/-! ## The byte-serial rows (95_test_vectors.md section 5.6) -/

theorem test_serial_1_2 :
    answers (exec (.byteHunt1 0x00) (inState .hunt1)) (fun t => t.regs.st = .hunt1) ∧
    answers (exec (.byteHunt1 0x5A) (inState .hunt1)) (fun t => t.regs.st = .hunt2) := by decide
theorem test_serial_3_4_5 :
    answers (exec (.byteHunt2 0x5A) (inState .hunt2)) (fun t => t.regs.st = .hunt2) ∧
    answers (exec (.byteHunt2 0x00) (inState .hunt2)) (fun t => t.regs.st = .hunt1) ∧
    answers (exec (.byteHunt2 0xA5) (inState .hunt2)) (fun t => t.regs.st = .lenLo ∧ t.regs.crcAcc = 0x043B) := by decide

/-- A state of the byte-serial machine with live registers. -/
def serialState (st : SerialSt) (lenR crcAcc crcRx cnt : U16) : State :=
  { State.reset with
    regs := { State.reset.regs with st := st, lenR := lenR, crcAcc := crcAcc, crcRx := crcRx, cnt := cnt } }

theorem test_serial_6 : answers (exec (.byteLenLo 0x4C) (serialState .lenLo 0xFFFF 0x043B 0 0))
    (fun t => t.regs.st = .lenHi ∧ t.regs.lenR = 0xFF4C ∧ t.regs.crcAcc = 0xF2CC) := by decide
theorem test_serial_7 : answers (exec (.byteLenHi 0x00) (serialState .lenHi 0xFF4C 0xF2CC 0 0))
    (fun t => t.regs.st = .crcLo ∧ t.regs.lenR = 76 ∧ t.regs.crcAcc = 0x035D) := by decide
theorem test_serial_8 : answers (exec (.byteCrcLo 0x7F) (serialState .crcLo 76 0x035D 0xFFFF 0))
    (fun t => t.regs.st = .crcHi ∧ t.regs.crcRx = 0xFF7F ∧ t.regs.crcAcc = 0x035D) := by decide
theorem test_serial_9 : answers (exec (.byteCrcHi 0x83) (serialState .crcHi 76 0x035D 0xFF7F 9))
    (fun t => t.regs.st = .payload ∧ t.regs.crcRx = 0x837F ∧ t.regs.cnt = 0) := by decide
theorem test_serial_10 : answers (exec (.byteCrcHi 0x4B) (serialState .crcHi 0 0x4BFC 0xFFFC 9))
    (fun t => t.regs.st = .hunt1 ∧ t.ports.sigUnknownType = true) := by decide
theorem test_serial_11 : answers (exec (.bytePayload 0x91) (serialState .payload 76 0x035D 0x837F 0))
    (fun t => t.regs.st = .payload ∧ t.regs.crcAcc = 0xFEFB ∧ t.regs.cnt = 1 ∧ t.regs.cap[0] = 0x91) := by decide +kernel
/-- V-SER-12, with payload bytes 0 to 74 of frame A in the capture store. -/
theorem test_serial_12 :
    answers (exec (.bytePayload 0x00)
        { State.reset with
          regs := ⟨.payload, 76, 0x837F, 0x9660, 75, captureOfList (mkHi91 aRecord)⟩ })
      (fun t => t.regs.st = .hunt1 ∧ t.ports.record = some aRecord) := by decide +kernel
theorem test_finish_short : answers (exec (.finish 0xA107 0xA107 1 (Vector.replicate 76 0x91)) State.reset)
    (fun t => t.regs.st = .hunt1 ∧ t.ports.sigPayloadTooShort = true ∧ t.ports.pulseCount = 1) := by decide +kernel
theorem test_finish_priority : answers (exec (.finish 0x2107 0xA107 1 (Vector.replicate 76 0x91)) State.reset)
    (fun t => t.ports.sigCrcMismatch = true ∧ t.ports.pulseCount = 1) := by decide +kernel
/-- P4: the stream 5A ++ U1. -/
theorem test_feedSerial_p4 : answers (exec (.feedSerial (0x5A :: u1Frame)) State.reset)
    (fun t => t.regs.st = .hunt1 ∧ t.serialEv = [.signal .unknownFrameType] ∧ t.ports.sigUnknownType = true) := by decide +kernel
theorem test_byte_p4 : answers (exec (.byte 0x5A) (inState .hunt2)) (fun t => t.regs.st = .hunt2) := by decide
theorem test_resetSerial : answers (exec .resetSerial (inState .payload))
    (fun t => t.regs.st = .hunt1 ∧ t.ports = Ports.quiet ∧ t.serialEv = []) := by decide

/-! ## The step -/

/-- R140: `rst` wins over `in_valid`. -/
theorem test_step_rst_wins :
    answers (step { inState .hunt2 with pending := [.edge true true 0xA5] }) (fun t => t.regs.st = .hunt1) := by decide
theorem test_step_table_word :
    answers (step (State.reset.withFetchWord 56 0x5AA54C00000091)) (fun t => t.ev = [.record zeroRecord]) := by decide +kernel
theorem test_step_table_resync :
    answers (step (State.reset.withFetchWord 56 0x00000000000000)) (fun t => t.buf = List.replicate 6 0) := by decide
theorem test_step_undecodable :
    refuses (step { State.reset with pending := [.op ⟨.byte, []⟩] }) (.undecodable .operandLength) := by decide

/-! ## Witnesses: hypotheses that a concrete state meets -/

/-- The frame of the largest length that stays small enough to write: 76 payload bytes and one more. -/
def longFrame : List Byte := mkFrame (0x91 :: List.replicate 75 0 ++ [0xEE])

theorem witness_quiescent_reset : State.reset.scanning = false ∧ State.reset.buf = [] ∧ Quiescent State.reset.buf := by decide
theorem witness_OverlapIsRefused : ({ State.reset with scanning := true } : State).scanning = true := rfl
theorem witness_FeedIsPureInBufferAndChunk :
    let s := withBuf zFrame
    let s' := { withBuf zFrame with ev := [.signal .crcMismatch] }
    s.scanning = false ∧ s'.scanning = false ∧ s.buf = s'.buf ∧ s ≠ s' := by decide
/-- Each clause of ScanTakesTheCaseOfTheHead and StreamRowsHaveTheirEffect at its boundary: 5 bytes; 6 bytes with `total` 7; 7 bytes with `total` 7
and 6 with `total` 6; 6 bytes without the pair. -/
theorem witness_stream_clauses :
    ([0x5A, 0xA5, 0x01, 0x00, 0x9F] : List Byte).length < 6 ∧
    (let b := u1Frame.take 6;
      6 ≤ b.length ∧ byteAt b 0 = 0x5A ∧ byteAt b 1 = 0xA5 ∧ b.length < 6 + ((byteAt b 2).toNat + 256 * (byteAt b 3).toNat)) ∧
    (let b := u1Frame;
      6 ≤ b.length ∧ byteAt b 0 = 0x5A ∧ byteAt b 1 = 0xA5 ∧ 6 + ((byteAt b 2).toNat + 256 * (byteAt b 3).toNat) ≤ b.length) ∧
    (let b := zFrame;
      6 ≤ b.length ∧ byteAt b 0 = 0x5A ∧ byteAt b 1 = 0xA5 ∧ 6 + ((byteAt b 2).toNat + 256 * (byteAt b 3).toNat) ≤ b.length) ∧
    (let b : List Byte := [0x5A, 0x5A, 0xA5, 0x01, 0x00, 0x9F];
      6 ≤ b.length ∧ ¬ (byteAt b 0 = 0x5A ∧ byteAt b 1 = 0xA5)) := by decide
set_option maxRecDepth 100000 in
/-- ScanReportsTheFirstCondition: SCAN answers in every condition. -/
theorem witness_scan_conditions :
    headCondition [] = .none ∧ headCondition (0x00 :: zFrame) = .syncLoss ∧
    headCondition (u1Frame.take 6) = .truncatedFrame ∧ headCondition u1Bad = .crcMismatch ∧
    headCondition zFrame = .unknownFrameType ∧ headCondition u1Frame = .unknownFrameType ∧
    headCondition s1Frame = .payloadTooShort ∧ headCondition bFrame = .none ∧
    answers (exec .scan (withBuf u1Bad)) (fun t => t.ev = [.signal .crcMismatch] ∧ t.buf = []) := by decide +kernel
theorem witness_inv_reset : Inv State.reset := ⟨fun _ => Or.inl (by decide), by decide, by decide, by decide⟩
theorem witness_feed_empty : Quiescent (u1Frame.take 6) ∧ (withBuf (u1Frame.take 6)).scanning = false := by decide
theorem witness_BackToBackFramesGiveOneEventEach :
    State.reset.scanning = false ∧ State.reset.buf = [] ∧
      ∀ f ∈ [zFrame, u1Frame, s1Frame, u1Bad, bFrame], CandidateFrame f := by decide +kernel
/-- The garbage of V-ASM-7. -/
theorem witness_GarbageIsDroppedByteByByte :
    CandidateFrame zFrame ∧
      ∀ i < 7, ¬ (byteAt [0x00, 0xA5, 0x5A, 0x5A, 0x00, 0xA5, 0x5A] i = 0x5A ∧
        byteAt [0x00, 0xA5, 0x5A, 0x5A, 0x00, 0xA5, 0x5A] (i + 1) = 0xA5) := by decide
theorem witness_SplitFrame : CandidateFrame bFrame ∧ 0 < bFrame.length ∧ 81 < bFrame.length := by decide +kernel
theorem witness_LeadingZeros_frame : CandidateFrame zFrame := by decide
theorem witness_ValidateComparesTheCrc :
    CandidateFrame u1Frame ∧ crc16 0 (u1Frame.take 4 ++ u1Frame.drop 6) = byteAt u1Frame 5 ++ byteAt u1Frame 4 ∧
    CandidateFrame u1Bad ∧ crc16 0 (u1Bad.take 4 ++ u1Bad.drop 6) ≠ byteAt u1Bad 5 ++ byteAt u1Bad 4 := by decide +kernel
theorem witness_FrameRows :
    computedCrc u1Bad ≠ frameCrc u1Bad ∧ computedCrc u1Frame = frameCrc u1Frame := by decide +kernel
theorem witness_EveryWellBuiltFrameValidates :
    ([] : List Byte).length ≤ 65535 ∧ (List.replicate 65535 (0 : Byte)).length ≤ 65535 := by
  rw [List.length_replicate]
  decide
theorem witness_AlteredFrameIsMismatched :
    0 < ([0x00] : List Byte).length ∧ (0x01 : Byte) ≠ byteAt [0x00] 0 ∧ (0 : U16) ≠ frameCrc (mkFrame [0x00]) ∧
      ([0x01] : List Byte).length = ([0x00] : List Byte).length := by decide +kernel
/-- The boundaries of the tag map: lengths 1, 75 and 76, tags 0x90 and 0x91. -/
theorem witness_tag_clauses :
    (1 ≤ ([0x90] : List Byte).length ∧ byteAt [0x90] 0 ≠ 0x91) ∧
    (1 ≤ ([0x91] : List Byte).length ∧ ([0x91] : List Byte).length ≤ 75 ∧ byteAt [0x91] 0 = 0x91) ∧
    (let p : List Byte := 0x91 :: List.replicate 74 0;
      1 ≤ p.length ∧ p.length ≤ 75 ∧ byteAt p 0 = 0x91) ∧
    (let p : List Byte := 0x91 :: List.replicate 75 0;
      76 ≤ p.length ∧ p.length ≤ 65535 ∧ byteAt p 0 = 0x91) := by decide +kernel
theorem witness_field_rows : Hi91Payload bPayload ∧ Hi91Payload (0x91 :: List.replicate 75 0) := by decide +kernel
set_option maxRecDepth 100000 in
theorem witness_LongHi91Payload :
    bPayload.length = 76 ∧ byteAt bPayload 0 = 0x91 ∧ bPayload.length + ([0xEE] : List Byte).length ≤ 65535 ∧
      0 < ([0xEE] : List Byte).length ∧ (0xEF : Byte) ≠ byteAt [0xEE] 0 ∧ (longFrame.take 6).drop 4 = [0xC2, 0x0A] := by
  decide +kernel
/-- Two payloads of RecordHoldsTheFields that agree on offsets 1 to 75 and differ behind them. -/
theorem witness_RecordHoldsTheFields :
    Hi91Payload bPayload ∧ Hi91Payload (bPayload ++ [0xEE]) ∧
      ∀ k < 76, byteAt (bPayload ++ [0xEE]) k = byteAt bPayload k := by decide +kernel
/-- A session of BufferIsTheEndOfTheStream that leaves a header, and the FEED after it. -/
theorem witness_BufferIsTheEndOfTheStream :
    (withBuf (u1Frame.take 6)).scanning = false ∧ (withBuf (u1Frame.take 6)).buf = (feedSession [] [0x00 :: u1Frame.take 6]).1 ∧
      answers (execAll [.append [0x00], .scan, .scan] (withBuf (u1Frame.take 6))) (fun t => t.buf = []) := by decide +kernel
theorem witness_hunt_clauses :
    (inState .hunt1).regs.st = .hunt1 ∧ (inState .hunt2).regs.st = .hunt2 ∧ (0x00 : Byte) ≠ 0x5A ∧ (0x00 : Byte) ≠ 0xA5 := by
  decide
theorem witness_header_clauses :
    (inState .lenLo).regs.st = .lenLo ∧ (inState .lenHi).regs.st = .lenHi ∧ (inState .crcLo).regs.st = .crcLo := by decide
theorem witness_CrcHi :
    (serialState .crcHi 0 0 0 0).regs.st = .crcHi ∧ (serialState .crcHi 0 0 0 0).regs.lenR = 0 ∧
      (serialState .crcHi 1 0 0 0).regs.lenR ≠ 0 := by decide
/-- Both clauses of PayloadStateCapturesAndCounts, at the last captured byte and just behind it. -/
theorem witness_Payload :
    (let r := (serialState .payload 76 0 0 75).regs;
      r.st = .payload ∧ r.cnt + 1 = r.lenR) ∧
    (let r := (serialState .payload 78 0 0 76).regs;
      r.st = .payload ∧ r.cnt + 1 ≠ r.lenR) := by decide
/-- Every clause of FinishGivesOneVerdict. -/
theorem witness_Finish :
    let c91 : Capture := Vector.replicate 76 0x91
    let c00 : Capture := Vector.replicate 76 0
    (1 : U16) ≠ 2 ∧ (1 : U16) ≠ 0 ∧ c00[0] ≠ 0x91 ∧ c91[0] = 0x91 ∧ (75 : U16).toNat < 76 ∧ 76 ≤ (76 : U16).toNat := by
  decide +kernel
theorem witness_StateRows : (inState .hunt1).regs.st ≠ .hunt2 ∧ (inState .hunt2).regs.st ≠ .hunt1 ∧
    (inState .hunt1).regs.st ≠ .lenLo ∧ (inState .hunt1).regs.st ≠ .lenHi ∧ (inState .hunt1).regs.st ≠ .crcLo ∧
    (inState .hunt1).regs.st ≠ .crcHi ∧ (inState .hunt1).regs.st ≠ .payload := by decide
/-- Two states in HUNT1 that differ in a dead register. -/
theorem witness_WrittenBeforeRead :
    (serialState .hunt1 1 2 3 4).regs.st = .hunt1 ∧ (inState .hunt1).regs.st = .hunt1 ∧
      (serialState .hunt1 1 2 3 4).regs ≠ (inState .hunt1).regs := by decide +kernel
/-- The refinement's hypotheses at reset, in the middle of a header and in the middle of a payload (95_test_vectors.md section 5.6). -/
theorem witness_Refinement_reset : State.reset.scanning = false ∧ Quiescent State.reset.buf ∧ Alpha State.reset.buf State.reset.regs :=
  ⟨rfl, Or.inl (by decide), by simp [Alpha, AlphaShort, frameBeginning, State.reset, hdrSize]⟩
theorem witness_Refinement_header :
    Quiescent [0x5A, 0x5A, 0xA5, 0x01, 0x00] ∧
      Alpha [0x5A, 0x5A, 0xA5, 0x01, 0x00] (serialState .crcLo 1 0x78CD 0 0).regs :=
  ⟨Or.inl (by decide), by
    have h : frameBeginning [0x5A, 0x5A, 0xA5, 0x01, 0x00] = [0x5A, 0xA5, 0x01, 0x00] := by decide
    rw [Alpha, if_pos (by decide), h]
    show _ ∧ _
    decide +kernel⟩
theorem witness_Refinement_payload :
    Quiescent (aFrame.take 6) ∧ Alpha (aFrame.take 6) (serialState .payload 76 0x035D 0x837F 0).regs :=
  ⟨by decide +kernel, by
    rw [Alpha, if_neg (by decide +kernel)]
    decide +kernel⟩
theorem witness_AlphaIsReached : (inState .hunt1).regs.st = .hunt1 ∧ Quiescent (aFrame.take 40) := by decide +kernel
/-- TheTwoLevelsShareNothing: an operation of each level answers. -/
theorem witness_TwoLevels :
    answers (exec (.feed zFrame) State.reset) (fun _ => true) ∧ (encode (.feed zFrame)).sel.format ≠ .serial ∧
    answers (exec (.byte 0x5A) State.reset) (fun _ => true) ∧ (encode (.byte 0x5A)).sel.format = .serial := by decide +kernel
theorem witness_DecodeOfEncode :
    Instr.WellFormed (.validate zFrame) ∧ Instr.WellFormed (.hi91 bPayload) ∧ Instr.WellFormed .reset := by
  refine ⟨?_, ?_, trivial⟩ <;> unfold Instr.WellFormed <;> decide +kernel
theorem witness_Decoded : decodesTo ⟨.tag, s1Frame⟩ (.hi91Short [0x91]) ∧ decodesTo ⟨.round, [0x00, 0x80]⟩ (.round 0x8000) := by
  decide +kernel
/-- MapsSelectByTheTable: a frame of every tag case. -/
theorem witness_Maps :
    (le16 zFrame 2).toNat = 0 ∧ (le16 u1Frame 2).toNat = 1 ∧ byteAt u1Frame 6 ≠ 0x91 ∧
    (le16 s1Frame 2).toNat = 1 ∧ byteAt s1Frame 6 = 0x91 ∧ (le16 bFrame 2).toNat = 76 ∧ byteAt bFrame 6 = 0x91 ∧
    bFrame.length = 6 + (le16 bFrame 2).toNat := by decide +kernel
/-- StepRunsTheDecodedOperation: each clause. -/
theorem witness_Step :
    fetch { State.reset with pending := [.edge false true 0x5A] } = some ⟨.byte, [0x5A]⟩ ∧
    decodesTo ⟨.byte, [0x5A]⟩ (.byte 0x5A) ∧
    fetch { State.reset with pending := [.op ⟨.byte, []⟩] } = some ⟨.byte, []⟩ ∧ rejects ⟨.byte, []⟩ .operandLength ∧
    fetch State.reset = none := by decide
theorem witness_StepKeepsInv :
    Inv { State.reset with pending := [.op ⟨.append, u1Frame⟩] } ∧
      answers (step { State.reset with pending := [.op ⟨.append, u1Frame⟩] }) (fun t => t.buf = u1Frame) :=
  ⟨⟨fun _ => Or.inl (by decide), by decide, by decide, by decide⟩, by decide⟩
theorem witness_HostContract :
    HostContract { State.reset with pending := [.op ⟨.feed, u1Frame⟩, .edge false true 0x5A, .op ⟨.reset, []⟩] } := by
  refine ⟨rfl, ?_⟩
  simp [Request.FromHost]

end Sys2Proof.Tests
end

section
/-! SUPPORT. What an operation can do to the state, said once for each of the two levels (log 1): every answer of `exec` is a
`BufferMove` or a `SerialMove`, and frame conditions and invariants are read off these few moves. -/

namespace Sys2Proof

/-- The operations of the byte-serial realisation: the rows whose format is `serial`, and the two host operations of that level. -/
def Instr.atSerialLevel : Instr → Bool
  | .feedSerial _ => true
  | .resetSerial => true
  | i => decide (i.format = .serial)

theorem encode_format (i : Instr) : (encode i).sel.format = i.format := by
  cases i <;> rfl

theorem atSerialLevel_iff (i : Instr) :
    i.atSerialLevel = true ↔
      (encode i).sel.format = .serial ∨ i = .resetSerial ∨ ∃ chunk, i = .feedSerial chunk := by
  rw [encode_format]
  cases i <;> simp [Instr.atSerialLevel, Instr.format]

end Sys2Proof

namespace Sys2Proof.Machine

/-! ## The moves of the buffer level -/

/-- What a buffer-level operation can answer: RESET, FEED, APPEND, an iteration of SCAN that stops, extracts or drops a byte, an
event put in the list, a value returned. -/
inductive BufferMove (s : State) : State → Prop
  | reset (idle : s.scanning = false) : BufferMove s { s with buf := [], ev := [] }
  | feed (chunk : List Byte) (idle : s.scanning = false) :
      BufferMove s { s with buf := (feedBuffer s.buf chunk).1, ev := (feedBuffer s.buf chunk).2 }
  | append (chunk : List Byte) (idle : s.scanning = false) :
      BufferMove s { s.appendTail chunk with scanning := true }
  | stop (stops : scanCase s.buf = .scanEnd ∨ scanCase s.buf = .wait) : BufferMove s s.endLoop
  | extract (complete : scanCase s.buf = .extract) : BufferMove s s.extractHead
  | resync (lost : scanCase s.buf = .resync) : BufferMove s (s.dropHead 1)
  | putEvent (e : Event) : BufferMove s (s.putEvent e)
  | returns (v : FnValue) : BufferMove s (s.returns v)

theorem bufferMove_of_execScan {s t : State} (h : execScan s = .next t) : BufferMove s t := by
  cases hc : scanCase s.buf <;> simp only [execScan, hc] at h <;> cases h
  case scanEnd => exact .stop (.inl hc)
  case wait => exact .stop (.inr hc)
  case extract => exact .extract hc
  case resync => exact .resync hc

/-- A guarded row whose condition `p` holds answers its move. -/
theorem bufferMove_of_whenSelected {p : Prop} [Decidable p] {m : String} {s t u : State}
    (h : whenSelected (decide p) m t = .next u) (move : p → BufferMove s t) : BufferMove s u := by
  obtain ⟨hp, rfl⟩ := whenSelected_eq_next.1 h
  exact move (of_decide_eq_true hp)

theorem bufferMove_of_whenQuiescent {s t u : State} (h : whenQuiescent s t = .next u)
    (move : s.scanning = false → BufferMove s t) : BufferMove s u := by
  obtain ⟨hq, rfl⟩ := whenQuiescent_eq_next.1 h
  exact move hq

theorem bufferMove_of_exec {i : Instr} {s t : State} (hi : i.atSerialLevel = false) (h : exec i s = .next t) :
    BufferMove s t := by
  cases i with
  | reset => exact bufferMove_of_whenQuiescent h .reset
  | feed chunk => exact bufferMove_of_whenQuiescent h (.feed chunk)
  | append chunk => exact bufferMove_of_whenQuiescent h (.append chunk)
  | scan => exact bufferMove_of_execScan h
  | extract => exact bufferMove_of_whenSelected h .extract
  | wait => exact bufferMove_of_whenSelected h fun hc => .stop (.inr hc)
  | resync => exact bufferMove_of_whenSelected h .resync
  | scanEnd => exact bufferMove_of_whenSelected h fun hc => .stop (.inl hc)
  | crc16 | byteStep | round => cases h; exact .returns _
  | decode | empty => cases h; exact .putEvent _
  | validate | crcBad | crcOk | hi91 | hi91Short | unknown =>
    exact bufferMove_of_whenSelected h fun _ => .putEvent _
  | hi91SyncTime | hi91Temperature | hi91Pressure | hi91SystemTimeMs | hi91Acc | hi91Gyr | hi91Mag | hi91Roll | hi91Pitch
  | hi91Yaw | hi91Quat =>
    exact bufferMove_of_whenSelected h fun _ => .returns _
  | byte | byteHunt1 | byteHunt2 | byteLenLo | byteLenHi | byteCrcLo | byteCrcHi | bytePayload | finish | feedSerial
  | resetSerial => cases hi

/-! ## The moves of the byte-serial level -/

/-- What a byte-serial operation can answer: one byte accepted, FINISH, the bytes of a chunk, RESET.serial. -/
inductive SerialMove (s : State) : State → Prop
  | byte (b : Byte) : SerialMove s (s.latch (serialByte s.regs b))
  | finish (e : Event) : SerialMove s (s.latch ({ s.regs with st := .hunt1 }, some e))
  | feed (chunk : List Byte) : SerialMove s (State.acceptBytes chunk { s with serialEv := [] })
  | reset :
      SerialMove s
        { s with regs := resetRegs s.freeCtr, ports := Ports.quiet, serialEv := [], freeCtr := s.freeCtr + 1 }

/-- A state row is BYTE in the state it is selected in (R145). -/
theorem serialMove_of_stateRow {st : SerialSt} {m : String} {s t : State} {b : Byte} {o : SerialRegs × Option Event}
    (h : whenSelected (s.regs.st = st) m (s.latch o) = .next t) (row : s.regs.st = st → serialByte s.regs b = o) :
    SerialMove s t := by
  obtain ⟨hst, rfl⟩ := whenSelected_eq_next.1 h
  rw [← row (of_decide_eq_true hst)]
  exact .byte b

theorem serialMove_of_exec {i : Instr} {s t : State} (hi : i.atSerialLevel = true) (h : exec i s = .next t) :
    SerialMove s t := by
  cases i with
  | byte b => cases h; exact .byte b
  | byteHunt1 b | byteHunt2 b | byteLenLo b | byteLenHi b | byteCrcLo b | byteCrcHi b | bytePayload b =>
    exact serialMove_of_stateRow h fun hst => by rw [serialByte, hst]
  | finish acc rx len cap => cases h; exact .finish _
  | feedSerial chunk => cases h; exact .feed chunk
  | resetSerial => cases h; exact .reset
  | reset | feed | append | scan | extract | wait | resync | scanEnd | crc16 | byteStep | round | validate | crcBad | crcOk
  | decode | empty | hi91 | hi91Short | unknown | hi91SyncTime | hi91Temperature | hi91Pressure | hi91SystemTimeMs | hi91Acc
  | hi91Gyr | hi91Mag | hi91Roll | hi91Pitch | hi91Yaw | hi91Quat => cases hi

/-- Every operation that answers makes a move of its level. -/
theorem move_of_exec {i : Instr} {s t : State} (h : exec i s = .next t) : BufferMove s t ∨ SerialMove s t := by
  cases hi : i.atSerialLevel with
  | false => exact .inl (bufferMove_of_exec hi h)
  | true => exact .inr (serialMove_of_exec hi h)

/-! ## What each level leaves unchanged -/

/-- Every field of the byte-serial level is as before. -/
def SameSerialPart (s t : State) : Prop :=
  t.regs = s.regs ∧ t.ports = s.ports ∧ t.serialEv = s.serialEv ∧ t.freeCtr = s.freeCtr

/-- Every field of the buffer level is as before. -/
def SameBufferPart (s t : State) : Prop :=
  t.buf = s.buf ∧ t.ev = s.ev ∧ t.scanning = s.scanning ∧ t.ret = s.ret

theorem BufferMove.sameSerialPart {s t : State} (h : BufferMove s t) : SameSerialPart s t := by
  cases h <;> exact ⟨rfl, rfl, rfl, rfl⟩

theorem acceptBytes_sameBufferPart (chunk : List Byte) (s : State) :
    SameBufferPart s (State.acceptBytes chunk s) := by
  rw [acceptBytes_spec]
  exact ⟨rfl, rfl, rfl, rfl⟩

theorem SerialMove.sameBufferPart {s t : State} (h : SerialMove s t) : SameBufferPart s t := by
  cases h with
  | feed chunk => exact acceptBytes_sameBufferPart chunk { s with serialEv := [] }
  | byte | finish | reset => exact ⟨rfl, rfl, rfl, rfl⟩

/-! ## What a step can do -/

/-- A step lets an idle edge pass, or runs one operation, with the request served taken off the list. -/
theorem step_eq_next {s t : State} (h : step s = .next t) :
    t = s.advance.idle ∨ ∃ i, exec i s.advance = .next t := by
  unfold step at h
  split at h
  · cases h; exact .inl rfl
  · split at h
    · exact .inr ⟨_, h⟩
    · cases h

end Sys2Proof.Machine
end

section
/-! SUPPORT. The invariant of 10_state.md, kept by every move of either level. -/

namespace Sys2Proof.Machine

/-! ## Quiescence (R24, R102) -/

/-- The buffer is quiescent exactly where SCAN ends the loop. -/
theorem quiescent_iff {buf : List Byte} : Quiescent buf ↔ scanCase buf = .scanEnd ∨ scanCase buf = .wait := by
  rw [scanCase_eq_scanEnd, scanCase_eq_wait]
  constructor
  · rintro (hshort | ⟨hsync, hpart⟩)
    · exact .inl hshort
    · by_cases hshort : buf.length < hdrSize
      · exact .inl hshort
      · exact .inr ⟨Nat.le_of_not_lt hshort, hsync, hpart⟩
  · rintro (hshort | ⟨_, hsync, hpart⟩)
    · exact .inl hshort
    · exact .inr ⟨hsync, hpart⟩

theorem quiescent_nil : Quiescent [] := .inl (by decide)

theorem not_quiescent_of_extract {buf : List Byte} (h : scanCase buf = .extract) : ¬ Quiescent buf := by
  simp [quiescent_iff, h]

theorem not_quiescent_of_resync {buf : List Byte} (h : scanCase buf = .resync) : ¬ Quiescent buf := by
  simp [quiescent_iff, h]

/-- FEED's loop, with fuel above the buffer's length, ends at a quiescent buffer. -/
theorem quiescent_scanLoop {fuel : Nat} {buf : List Byte} (hfuel : buf.length < fuel) :
    Quiescent (scanLoop fuel buf).1 := by
  induction fuel generalizing buf with
  | zero => omega
  | succ fuel ih =>
    simp only [scanLoop]
    cases hc : scanCase buf with
    | scanEnd => exact quiescent_iff.2 (.inl hc)
    | wait => exact quiescent_iff.2 (.inr hc)
    | extract =>
      obtain ⟨hlen, _, _⟩ := scanCase_eq_extract.1 hc
      have htotal := hdrSize_le_frameTotal buf
      simp only [hdrSize] at hlen htotal
      exact ih (by rw [List.length_drop]; omega)
    | resync =>
      obtain ⟨hlen, _⟩ := scanCase_eq_resync.1 hc
      simp only [hdrSize] at hlen
      exact ih (by rw [List.length_drop]; omega)

theorem quiescent_feedBuffer (buf chunk : List Byte) : Quiescent (feedBuffer buf chunk).1 :=
  quiescent_scanLoop (Nat.lt_succ_self _)

/-- A quiescent buffer is shorter than the largest frame, 65541 bytes. -/
theorem Quiescent.length_le {buf : List Byte} (h : Quiescent buf) : buf.length ≤ 65540 := by
  have htotal := frameTotal_le buf
  rcases h with hshort | ⟨_, hpart⟩
  · simp only [hdrSize] at hshort
    omega
  · omega

/-- A move of the buffer level that leaves no FEED running leaves a quiescent buffer. -/
theorem BufferMove.quiescent {s t : State} (h : BufferMove s t) (hs : s.scanning = false → Quiescent s.buf)
    (ht : t.scanning = false) : Quiescent t.buf := by
  cases h with
  | reset => exact quiescent_nil
  | feed chunk => exact quiescent_feedBuffer s.buf chunk
  | append => cases ht
  | stop stops => exact quiescent_iff.2 stops
  | extract complete => exact absurd (hs ht) (not_quiescent_of_extract complete)
  | resync lost => exact absurd (hs ht) (not_quiescent_of_resync lost)
  | putEvent | returns => exact hs ht

/-! ## The registers (R29, R144, R147) -/

/-- The two clauses of `Inv` that speak of the registers. -/
structure RegsInv (r : SerialRegs) : Prop where
  count : r.st = .payload → r.cnt < r.lenR
  syncCrc : r.st = .lenLo → r.crcAcc = crcAfterSync

theorem Inv.regsInv {s : State} (h : Inv s) : RegsInv s.regs := ⟨h.count, h.syncCrc⟩

/-- In the five other states the registers are not constrained. -/
theorem regsInv_of_st_ne {r : SerialRegs} (hpayload : r.st ≠ .payload) (hlenLo : r.st ≠ .lenLo) : RegsInv r :=
  ⟨fun h => absurd h hpayload, fun h => absurd h hlenLo⟩

theorem regsInv_of_payload {r : SerialRegs} (hst : r.st = .payload) (hcnt : r.cnt < r.lenR) : RegsInv r :=
  ⟨fun _ => hcnt, fun h => by simp [hst] at h⟩

/-- A byte that leaves HUNT without the sync pair goes to HUNT1 or HUNT2. -/
theorem regsInv_hunting (r : SerialRegs) (b : Byte) :
    RegsInv { r with st := if b = sync1 then .hunt2 else .hunt1 } := by
  by_cases hb : b = sync1 <;> exact regsInv_of_st_ne (by simp [hb]) (by simp [hb])

theorem regsInv_serialHunt2 (r : SerialRegs) (b : Byte) : RegsInv (serialHunt2 r b).1 := by
  unfold serialHunt2
  split
  · exact ⟨nofun, fun _ => rfl⟩
  · exact regsInv_hunting r b

/-- A length above 0 is above the cleared count. -/
theorem regsInv_serialCrcHi (r : SerialRegs) (b : Byte) : RegsInv (serialCrcHi r b).1 := by
  simp only [serialCrcHi]
  split
  · exact regsInv_of_st_ne nofun nofun
  · next hlen => exact regsInv_of_payload rfl ((BitVec.pos_iff_ne_zero _).2 hlen)

/-- `cnt` below `len_r` does not wrap when it counts a byte, and either reaches `len_r` or stays below. -/
theorem regsInv_serialPayload {r : SerialRegs} (hcnt : r.cnt < r.lenR) (b : Byte) : RegsInv (serialPayload r b).1 := by
  simp only [serialPayload]
  split
  · exact regsInv_of_st_ne nofun nofun
  · next hne =>
    exact regsInv_of_payload rfl (show r.cnt + 1 < r.lenR by bv_omega)

theorem regsInv_serialByte {r : SerialRegs} (h : RegsInv r) (b : Byte) : RegsInv (serialByte r b).1 := by
  unfold serialByte
  cases hst : r.st with
  | hunt1 => exact regsInv_hunting r b
  | hunt2 => exact regsInv_serialHunt2 r b
  | lenLo | lenHi | crcLo => exact regsInv_of_st_ne nofun nofun
  | crcHi => exact regsInv_serialCrcHi r b
  | payload => exact regsInv_serialPayload (h.count hst) b

/-! ## The invariant, move by move -/

theorem pulseCount_ofEvent_le (e : Option Event) : (Ports.ofEvent e).pulseCount ≤ 1 := by
  rw [pulseCount_ofEvent]
  exact Option.length_toList_le

theorem pulseCount_quiet_le : Ports.quiet.pulseCount ≤ 1 := pulseCount_ofEvent_le none

theorem Inv.of_bufferMove {s t : State} (hs : Inv s) (h : BufferMove s t) : Inv t := by
  obtain ⟨hregs, hports, _, _⟩ := h.sameSerialPart
  exact
    { quiescent := h.quiescent hs.quiescent
      count := hregs ▸ hs.count
      syncCrc := hregs ▸ hs.syncCrc
      pulses := hports ▸ hs.pulses }

/-- Where the buffer level is as before, the clauses about registers and pulses are what is left of the invariant. -/
theorem Inv.of_sameBufferPart {s t : State} (hs : Inv s) (h : SameBufferPart s t) (hregs : RegsInv t.regs)
    (hpulses : t.ports.pulseCount ≤ 1) : Inv t := by
  obtain ⟨hbuf, _, hscanning, _⟩ := h
  exact
    { quiescent := by rw [hbuf, hscanning]; exact hs.quiescent
      count := hregs.count
      syncCrc := hregs.syncCrc
      pulses := hpulses }

theorem Inv.acceptBytes {s : State} (hs : Inv s) (chunk : List Byte) : Inv (State.acceptBytes chunk s) := by
  induction chunk generalizing s with
  | nil => exact hs
  | cons b bs ih =>
    exact ih (hs.of_sameBufferPart ⟨rfl, rfl, rfl, rfl⟩ (regsInv_serialByte hs.regsInv b) (pulseCount_ofEvent_le _))

theorem Inv.of_serialMove {s t : State} (hs : Inv s) (h : SerialMove s t) : Inv t := by
  cases h with
  | byte b =>
    exact hs.of_sameBufferPart (SerialMove.byte b).sameBufferPart (regsInv_serialByte hs.regsInv b)
      (pulseCount_ofEvent_le _)
  | finish e =>
    exact hs.of_sameBufferPart (SerialMove.finish e).sameBufferPart (regsInv_of_st_ne nofun nofun)
      (pulseCount_ofEvent_le _)
  | feed chunk =>
    have hcleared : Inv { s with serialEv := [] } := hs.of_sameBufferPart ⟨rfl, rfl, rfl, rfl⟩ hs.regsInv hs.pulses
    exact hcleared.acceptBytes chunk
  | reset =>
    exact hs.of_sameBufferPart SerialMove.reset.sameBufferPart (regsInv_of_st_ne nofun nofun) pulseCount_quiet_le

/-- Every operation that answers keeps the invariant. -/
theorem Inv.of_exec {i : Instr} {s t : State} (hs : Inv s) (h : exec i s = .next t) : Inv t :=
  (move_of_exec h).elim hs.of_bufferMove hs.of_serialMove

theorem Inv.advance {s : State} (hs : Inv s) : Inv s.advance :=
  hs.of_sameBufferPart ⟨rfl, rfl, rfl, rfl⟩ hs.regsInv hs.pulses

theorem Inv.idle {s : State} (hs : Inv s) : Inv s.idle :=
  hs.of_sameBufferPart ⟨rfl, rfl, rfl, rfl⟩ hs.regsInv pulseCount_quiet_le

theorem inv_reset : Inv State.reset where
  quiescent _ := quiescent_nil
  count := nofun
  syncCrc := nofun
  pulses := pulseCount_quiet_le

theorem exec_feed_of_idle {s : State} (chunk : List Byte) (h : s.scanning = false) :
    exec (.feed chunk) s =
      .next { s with buf := (feedBuffer s.buf chunk).1, ev := (feedBuffer s.buf chunk).2 } :=
  whenQuiescent_of h

end Sys2Proof.Machine
end

section
/-! SUPPORT. The statements of 10_state.md, settled. -/

namespace Sys2Proof.Proofs

open Machine

/-- Settles O59: an idle edge changes the pulses only, and every move of either level keeps the invariant. -/
theorem stepKeepsInv : Obligations.StepKeepsInv := by
  intro s t hs h
  rcases step_eq_next h with rfl | ⟨i, hexec⟩
  · exact hs.advance.idle
  · exact hs.advance.of_exec hexec

/-- Settles O1: each clause is read off the reset state. -/
theorem resetStateIsAsSpecified : Obligations.ResetStateIsAsSpecified :=
  ⟨rfl, inv_reset.quiescent rfl, rfl, rfl, rfl, rfl, rfl⟩

/-- Settles O4: both answers are those of `feedBuffer` on the common buffer. -/
theorem feedIsPureInBufferAndChunk : Obligations.FeedIsPureInBufferAndChunk := by
  intro s s' chunk hs hs' hbuf
  refine ⟨(feedBuffer s.buf chunk).1, (feedBuffer s.buf chunk).2, exec_feed_of_idle chunk hs, ?_⟩
  rw [hbuf]
  exact exec_feed_of_idle chunk hs'

/-- Settles O13: the bound is the largest frame's, and a complete frame at the head would be extracted. -/
theorem quiescentBufferIsBounded : Obligations.QuiescentBufferIsBounded := by
  intro s hs hidle
  have hq : Quiescent s.buf := hs.quiescent hidle
  exact ⟨hq.length_le, fun hcomplete => not_quiescent_of_extract (scanCase_eq_extract.2 hcomplete) hq⟩

/-- Settles O49: an operation makes a move of its own level, and a move leaves the other level alone. -/
theorem theTwoLevelsShareNothing : Obligations.TheTwoLevelsShareNothing := by
  intro i s t h
  constructor
  · intro hformat hreset hfeed
    have hi : i.atSerialLevel = false := by
      rw [← Bool.not_eq_true, atSerialLevel_iff]
      rintro (hserial | rfl | ⟨chunk, rfl⟩)
      · exact hformat hserial
      · exact hreset rfl
      · exact hfeed chunk rfl
    exact (bufferMove_of_exec hi h).sameSerialPart
  · intro hserial
    exact (serialMove_of_exec ((atSerialLevel_iff i).2 hserial) h).sameBufferPart

/-- Settles O58: the reset table meets each clause (`inv_reset`). -/
theorem invHoldsAtReset : Obligations.InvHoldsAtReset := inv_reset

end Sys2Proof.Proofs
end

section
/-! SUPPORT. Facts for 20_memory.md: little-endian reads (R43), operations that overlap a FEED (R54), and the order in which bytes
stand in the buffer (R57). -/

namespace Sys2Proof.Machine

/-! ## Little-endian reads (R43) -/

/-- A byte appended below `x` adds its value to 256 times that of `x`. -/
theorem toNat_append_byte {n : Nat} (x : BitVec n) (b : Byte) : (x ++ b).toNat = b.toNat + 256 * x.toNat := by
  rw [BitVec.toNat_append, ← Nat.shiftLeft_add_eq_or_of_lt b.isLt, Nat.shiftLeft_eq]
  omega

theorem le16_toNat (s : List Byte) (o : Nat) :
    (le16 s o).toNat = (byteAt s o).toNat + 256 * (byteAt s (o + 1)).toNat :=
  toNat_append_byte _ _

theorem le32_toNat (s : List Byte) (o : Nat) :
    (le32 s o).toNat =
      (byteAt s o).toNat + 2 ^ 8 * (byteAt s (o + 1)).toNat + 2 ^ 16 * (byteAt s (o + 2)).toNat +
        2 ^ 24 * (byteAt s (o + 3)).toNat := by
  simp only [le32, toNat_append_byte]
  omega

theorem le32_low_byte (s : List Byte) (o : Nat) : (le32 s o).extractLsb' 0 8 = byteAt s o :=
  BitVec.extractLsb'_append_eq_right

theorem le32_high_byte (s : List Byte) (o : Nat) : (le32 s o).extractLsb' 24 8 = byteAt s (o + 3) := by
  have hassoc : le32 s o = byteAt s (o + 3) ++ (byteAt s (o + 2) ++ (byteAt s (o + 1) ++ byteAt s o)) := by
    simp only [le32, BitVec.append_assoc, BitVec.cast_eq]
  rw [hassoc]
  exact BitVec.extractLsb'_append_eq_left

/-- The payload offsets of the 32-bit fields of a record (R66), in the order of its ports. -/
def wordOffsets : List Nat := [4, 8, 12, 16, 20, 24, 28, 32, 36, 40, 44, 48, 52, 56, 60, 64, 68, 72]

/-- The 32-bit fields of a record, each with its payload offset. -/
def recordWords (r : DecodedRecord) : List (U32 × Nat) :=
  [r.pressure, r.systemTimeMs, r.acc0, r.acc1, r.acc2, r.gyr0, r.gyr1, r.gyr2, r.mag0, r.mag1, r.mag2, r.roll, r.pitch, r.yaw,
    r.quat0, r.quat1, r.quat2, r.quat3].zip wordOffsets

/-- Each 32-bit field of a decoded record is the read at its offset. -/
theorem recordWords_decodeHi91 (p : List Byte) :
    recordWords (decodeHi91 p) = wordOffsets.map fun o => (le32 p o, o) := rfl

/-! ## A host operation that overlaps a FEED (R54) -/

theorem whenQuiescent_of_scanning {s t : State} (h : s.scanning = true) : whenQuiescent s t = .refused .overlap := by
  simp [whenQuiescent, h]

/-! ## The buffer loses bytes at its head only (R57) -/

/-- What FEED's loop leaves is the end of the buffer it began with. -/
theorem scanLoop_suffix (fuel : Nat) (buf : List Byte) : (scanLoop fuel buf).1 <:+ buf := by
  induction fuel generalizing buf with
  | zero => exact List.suffix_rfl
  | succ fuel ih =>
    simp only [scanLoop]
    cases scanCase buf with
    | scanEnd | wait => exact List.suffix_rfl
    | extract | resync => exact (ih _).trans (List.drop_suffix _ _)

theorem feedBuffer_suffix (buf chunk : List Byte) : (feedBuffer buf chunk).1 <:+ buf ++ chunk :=
  scanLoop_suffix _ _

/-- What a session leaves is the end of the buffer it began with and its chunks. -/
theorem feedSession_suffix (buf : List Byte) (chunks : List (List Byte)) :
    (feedSession buf chunks).1 <:+ buf ++ chunks.flatten := by
  induction chunks generalizing buf with
  | nil => simp [feedSession]
  | cons chunk chunks ih =>
    calc (feedSession (feedBuffer buf chunk).1 chunks).1
      _ <:+ (feedBuffer buf chunk).1 ++ chunks.flatten := ih _
      _ <:+ (buf ++ chunk) ++ chunks.flatten := List.suffix_append_self_iff.2 (feedBuffer_suffix buf chunk)
      _ = buf ++ (chunk :: chunks).flatten := by simp

theorem execScan_suffix {s t : State} (h : execScan s = .next t) : t.buf <:+ s.buf := by
  cases hc : scanCase s.buf <;> simp only [execScan, hc] at h <;> cases h
  case scanEnd | wait => exact List.suffix_rfl
  case extract | resync => exact List.drop_suffix _ _

/-- A run of operations answers exactly where its first one answers and the others answer from there. -/
theorem execAll_cons_eq_next {i : Instr} {is : List Instr} {s u : State} :
    execAll (i :: is) s = .next u ↔ ∃ t, exec i s = .next t ∧ execAll is t = .next u := by
  cases h : exec i s <;> simp [execAll, h]

theorem execAll_scans_suffix {k : Nat} {s t : State} (h : execAll (List.replicate k .scan) s = .next t) :
    t.buf <:+ s.buf := by
  induction k generalizing s with
  | zero => cases h; exact List.suffix_rfl
  | succ k ih =>
    obtain ⟨u, hscan, hrest⟩ := execAll_cons_eq_next.1 h
    exact (ih hrest).trans (execScan_suffix hscan)

/-- APPEND puts the chunk behind the buffer. -/
theorem execAppend_buf {chunk : List Byte} {s t : State} (h : execAppend chunk s = .next t) : t.buf = s.buf ++ chunk := by
  obtain ⟨_, rfl⟩ := whenQuiescent_eq_next.1 h
  rfl

end Sys2Proof.Machine
end

section
/-! SUPPORT. The statements of 20_memory.md, settled. -/

namespace Sys2Proof.Proofs

open Machine

/-- Settles O15: a FEED, and each SCAN of one that runs, only drops bytes at the head, and a chunk comes in at the tail. -/
theorem bufferIsTheEndOfTheStream : Obligations.BufferIsTheEndOfTheStream := by
  intro chunks
  have hsession : (feedSession [] chunks).1 <:+ chunks.flatten := feedSession_suffix [] chunks
  refine ⟨hsession, fun chunk k s t _ hbuf hrun => ?_⟩
  obtain ⟨u, happend, hscans⟩ := execAll_cons_eq_next.1 hrun
  calc t.buf
    _ <:+ u.buf := execAll_scans_suffix hscans
    _ = (feedSession [] chunks).1 ++ chunk := by rw [execAppend_buf happend, hbuf]
    _ <:+ chunks.flatten ++ chunk := List.suffix_append_self_iff.2 hsession
    _ = (chunks ++ [chunk]).flatten := by simp

/-- Settles O3: the three operations share the guard `whenQuiescent`. -/
theorem overlapIsRefused : Obligations.OverlapIsRefused :=
  fun _ _ h => ⟨whenQuiescent_of_scanning h, whenQuiescent_of_scanning h, whenQuiescent_of_scanning h⟩

/-- Settles O36: the two reads weigh their bytes by rising offset, and every multi-byte field is one of them. -/
theorem fieldsAreLittleEndian : Obligations.FieldsAreLittleEndian := by
  refine ⟨fun s o => ⟨le16_toNat s o, le32_toNat s o, le32_low_byte s o, le32_high_byte s o⟩,
    fun f => ⟨le16_toNat f 2, le16_toNat f 4⟩, fun p => ⟨rfl, ?_⟩⟩
  show ∀ x ∈ recordWords (decodeHi91 p), x.1 = le32 p x.2
  rw [recordWords_decodeHi91]
  exact List.forall_mem_map.2 fun _ _ => rfl

end Sys2Proof.Proofs
end

section
/-! SUPPORT. Facts for 30_encoding.md: the bytes of a `u16`, the frames that FRAME builds (R75), the maps of R68, the columns of
the opcode table, and the decoder as a relation, `Decodes`, from which every statement about it is read off. -/

namespace Sys2Proof.Machine

/-! ## Little-endian `u16` (R43) -/

/-- A `u16` is its high byte before its low byte. -/
theorem high_append_low (v : U16) : v.extractLsb' 8 8 ++ v.extractLsb' 0 8 = v :=
  (BitVec.extractLsb'_append_extractLsb'_eq_extractLsb' rfl).trans BitVec.extractLsb'_eq_self

theorem u16Bytes_append (hi lo : Byte) : u16Bytes (hi ++ lo) = [lo, hi] := by
  have hlow : (hi ++ lo).extractLsb' 0 8 = lo := BitVec.extractLsb'_append_eq_right
  have hhigh : (hi ++ lo).extractLsb' 8 8 = hi := BitVec.extractLsb'_append_eq_left
  exact congrArg₂ (fun low high => [low, high]) hlow hhigh

/-! ## Candidate frames (R60, R110) -/

theorem syncAtHead_of_candidateFrame {f : List Byte} (h : CandidateFrame f) : SyncAtHead f :=
  have ⟨_, hsync, _⟩ := h
  hsync

theorem length_framePayload {f : List Byte} (h : CandidateFrame f) : (framePayload f).length = frameLength f := by
  obtain ⟨_, _, htotal⟩ := h
  rw [framePayload, List.length_drop, htotal, frameTotal, Nat.add_sub_cancel_left]

theorem frameLength_le (f : List Byte) : frameLength f ≤ maxLen := Nat.le_of_lt_succ (le16 f lenOff).isLt

theorem length_framePayload_le {f : List Byte} (h : CandidateFrame f) : (framePayload f).length ≤ maxLen :=
  length_framePayload h ▸ frameLength_le f

theorem byteAt_framePayload (f : List Byte) (o : Nat) : byteAt (framePayload f) o = byteAt f (hdrSize + o) :=
  byteAt_drop f hdrSize o

/-! ## The frames that FRAMEX and FRAME build (R75) -/

theorem framePayload_mkFrameX (p : List Byte) (k : U16) : framePayload (mkFrameX p k) = p := rfl

theorem length_mkFrameX (p : List Byte) (k : U16) : (mkFrameX p k).length = hdrSize + p.length := by
  simp only [mkFrameX, frameHead, u16Bytes, List.length_append, List.length_cons, List.length_nil, hdrSize]

theorem frameLength_mkFrameX {p : List Byte} (k : U16) (hp : p.length ≤ maxLen) :
    frameLength (mkFrameX p k) = p.length := by
  have hread : le16 (mkFrameX p k) lenOff = BitVec.ofNat 16 p.length := high_append_low _
  rw [frameLength, hread, BitVec.toNat_ofNat]
  exact Nat.mod_eq_of_lt (Nat.lt_succ_of_le hp)

theorem candidateFrame_mkFrameX {p : List Byte} (k : U16) (hp : p.length ≤ maxLen) :
    CandidateFrame (mkFrameX p k) := by
  refine ⟨?_, ⟨rfl, rfl⟩, ?_⟩
  · rw [length_mkFrameX]
    exact Nat.le_add_right _ _
  · rw [length_mkFrameX, frameTotal, frameLength_mkFrameX k hp]

theorem candidateFrame_mkFrame {p : List Byte} (hp : p.length ≤ maxLen) : CandidateFrame (mkFrame p) :=
  candidateFrame_mkFrameX _ hp

theorem framePayload_mkFrame (p : List Byte) : framePayload (mkFrame p) = p := framePayload_mkFrameX p _

/-! ## The tag map (R68, R120) -/

theorem tagCase_eq_empty {p : List Byte} : tagCase p = .empty ↔ p.length = 0 := by
  unfold tagCase
  split_ifs <;> simp_all

theorem tagCase_eq_hi91 {p : List Byte} : tagCase p = .hi91 ↔ byteAt p 0 = tagHi91 ∧ hi91MinLen ≤ p.length := by
  unfold tagCase
  split_ifs <;> simp_all [hi91MinLen]

theorem tagCase_eq_hi91Short {p : List Byte} : tagCase p = .hi91Short ↔ Hi91ShortPayload p := by
  unfold tagCase Hi91ShortPayload
  split_ifs <;> simp_all [hi91MinLen, Nat.one_le_iff_ne_zero]

theorem tagCase_eq_unknown {p : List Byte} : tagCase p = .unknown ↔ byteAt p 0 ≠ tagHi91 ∧ 1 ≤ p.length := by
  unfold tagCase
  split_ifs <;> simp_all [Nat.one_le_iff_ne_zero]

/-! ## The decode window (30_encoding.md section 7) -/

/-- A mask and a match hold of a vector with one more byte when they hold of the vector and of the byte. -/
theorem append_byte_and {n : Nat} {x mask word : BitVec n} {b maskByte wordByte : Byte} (hx : x &&& mask = word)
    (hb : b &&& maskByte = wordByte) : (x ++ b) &&& (mask ++ maskByte) = word ++ wordByte := by
  rw [BitVec.and_append, hx, hb]

/-- A window has a match under a mask when each of its seven bytes has. -/
theorem window_and_window {s mask word : List Byte}
    (h : ∀ k < 7, byteAt s k &&& byteAt mask k = byteAt word k) : window s &&& window mask = window word :=
  append_byte_and (append_byte_and (append_byte_and (append_byte_and (append_byte_and (append_byte_and
    (h 0 (by decide)) (h 1 (by decide))) (h 2 (by decide))) (h 3 (by decide))) (h 4 (by decide))) (h 5 (by decide)))
    (h 6 (by decide))

/-- The rows that need the sync pair and no more. -/
theorem window_of_syncAtHead {s : List Byte} (h : SyncAtHead s) : window s &&& 0xFFFF0000000000 = 0x5AA50000000000 :=
  window_and_window (mask := [0xFF, 0xFF, 0, 0, 0, 0, 0]) (word := [0x5A, 0xA5, 0, 0, 0, 0, 0]) fun
    | 0, _ => h.1 ▸ rfl
    | 1, _ => h.2 ▸ rfl
    | 2, _ | 3, _ | 4, _ | 5, _ | 6, _ => BitVec.and_zero

/-- EMPTY: the sync pair and a length of 0. -/
theorem window_of_empty {f : List Byte} (hsync : SyncAtHead f) (hlen : frameLength f = 0) :
    window f &&& 0xFFFFFFFF000000 = 0x5AA50000000000 := by
  have hbytes : (byteAt f 2).toNat + 256 * (byteAt f 3).toNat = 0 := (le16_toNat f lenOff).symm.trans hlen
  have h2 : byteAt f 2 = 0 := by bv_omega
  have h3 : byteAt f 3 = 0 := by bv_omega
  exact window_and_window (mask := [0xFF, 0xFF, 0xFF, 0xFF, 0, 0, 0]) (word := [0x5A, 0xA5, 0, 0, 0, 0, 0]) fun
    | 0, _ => hsync.1 ▸ rfl
    | 1, _ => hsync.2 ▸ rfl
    | 2, _ => by rw [h2]; rfl
    | 3, _ => by rw [h3]; rfl
    | 4, _ | 5, _ | 6, _ => BitVec.and_zero

/-- The HI91 rows: the sync pair and the tag. -/
theorem window_of_hi91 {f : List Byte} (hsync : SyncAtHead f) (htag : byteAt (framePayload f) 0 = tagHi91) :
    window f &&& 0xFFFF00000000FF = 0x5AA50000000091 := by
  have h6 : byteAt f 6 = tagHi91 := (byteAt_framePayload f 0).symm.trans htag
  exact window_and_window (mask := [0xFF, 0xFF, 0, 0, 0, 0, 0xFF]) (word := [0x5A, 0xA5, 0, 0, 0, 0, 0x91]) fun
    | 0, _ => hsync.1 ▸ rfl
    | 1, _ => hsync.2 ▸ rfl
    | 6, _ => h6 ▸ rfl
    | 2, _ | 3, _ | 4, _ | 5, _ => BitVec.and_zero

end Sys2Proof.Machine

namespace Sys2Proof

open Machine

/-! ## The capture store of FINISH -/

theorem captureOfList_toList (cap : Capture) : captureOfList cap.toList = cap := by
  ext k hk
  simp [captureOfList, byteAt]

theorem toList_captureOfList {bytes : List Byte} (h : bytes.length = 76) : (captureOfList bytes).toList = bytes := by
  apply List.ext_getElem
  · simp [h]
  · intro k _ hk
    simp [captureOfList, byteAt, hk]

/-! ## The decoder, selector by selector -/

/-- Every code that is an operation, with that operation: one constructor per selector, two for the frame map. -/
inductive Decodes : Code → Instr → Prop
  | reset : Decodes ⟨.reset, []⟩ .reset
  | feed (chunk : List Byte) : Decodes ⟨.feed, chunk⟩ (.feed chunk)
  | resetSerial : Decodes ⟨.resetSerial, []⟩ .resetSerial
  | feedSerial (chunk : List Byte) : Decodes ⟨.feedSerial, chunk⟩ (.feedSerial chunk)
  | append (chunk : List Byte) : Decodes ⟨.append, chunk⟩ (.append chunk)
  | scan : Decodes ⟨.scan, []⟩ .scan
  | stream (sc : ScanCase) {buf : List Byte} (selected : scanCase buf = sc) :
      Decodes ⟨.stream, buf⟩ (scanCaseInstr sc)
  | crc16 (seed : U16) (bytes : List Byte) : Decodes ⟨.crc16, u16Bytes seed ++ bytes⟩ (.crc16 seed bytes)
  | byteStep (crc : U16) (b : Byte) : Decodes ⟨.byteStep, u16Bytes crc ++ [b]⟩ (.byteStep crc b)
  | round (c : U16) : Decodes ⟨.round, u16Bytes c⟩ (.round c)
  | validate {f : List Byte} (frame : CandidateFrame f) : Decodes ⟨.validate, f⟩ (.validate f)
  | crcBad {f : List Byte} (frame : CandidateFrame f) (differ : ¬ CrcMatches f) : Decodes ⟨.verdict, f⟩ (.crcBad f)
  | crcOk {f : List Byte} (frame : CandidateFrame f) (equal : CrcMatches f) : Decodes ⟨.verdict, f⟩ (.crcOk f)
  | decode {f : List Byte} (frame : CandidateFrame f) : Decodes ⟨.decode, f⟩ (.decode (framePayload f))
  | tag (tc : TagCase) {f : List Byte} (frame : CandidateFrame f) (selected : tagCase (framePayload f) = tc) :
      Decodes ⟨.tag, f⟩ (tagCaseInstr (framePayload f) tc)
  | field (k : Hi91Field) {f : List Byte} (frame : CandidateFrame f) (hi91 : Hi91Payload (framePayload f)) :
      Decodes ⟨.field k, f⟩ (fieldInstr (framePayload f) k)
  | byte (b : Byte) : Decodes ⟨.byte, [b]⟩ (.byte b)
  | state (st : SerialSt) (b : Byte) : Decodes ⟨.state st, [b]⟩ (stateInstr b st)
  | finish (acc rx len : U16) (cap : Capture) :
      Decodes ⟨.finish, u16Bytes acc ++ u16Bytes rx ++ u16Bytes len ++ cap.toList⟩ (.finish acc rx len cap)

theorem decodeBare_eq_ok {row i : Instr} {bytes : List Byte} : decodeBare row bytes = .ok i ↔ bytes = [] ∧ row = i := by
  by_cases h : bytes = [] <;> simp [decodeBare, h]

theorem decodeFrame_eq_ok {row : List Byte → Instr} {i : Instr} {bytes : List Byte} :
    decodeFrame row bytes = .ok i ↔ CandidateFrame bytes ∧ row bytes = i := by
  unfold decodeFrame
  split_ifs with frame
  · rw [Except.ok.injEq, and_iff_right frame]
  · exact ⟨nofun, fun h => absurd h.1 frame⟩

theorem decode_verdict_eq_ok {f : List Byte} {i : Instr} :
    decode ⟨.verdict, f⟩ = .ok i ↔ CandidateFrame f ∧ (if CrcMatches f then .crcOk f else .crcBad f) = i := by
  simp only [decode, decodeFrame_eq_ok]

theorem decode_decode_eq_ok {f : List Byte} {i : Instr} :
    decode ⟨.decode, f⟩ = .ok i ↔ CandidateFrame f ∧ .decode (framePayload f) = i := by
  simp only [decode, decodeFrame_eq_ok]

theorem decode_tag_eq_ok {f : List Byte} {i : Instr} :
    decode ⟨.tag, f⟩ = .ok i ↔
      CandidateFrame f ∧ tagCaseInstr (framePayload f) (tagCase (framePayload f)) = i := by
  simp only [decode, decodeFrame_eq_ok]

theorem decode_of_decodes {c : Code} {i : Instr} (h : Decodes c i) : decode c = .ok i := by
  cases h with
  | reset | resetSerial | scan => exact decodeBare_eq_ok.2 ⟨rfl, rfl⟩
  | feed | feedSerial | append | byte | state => rfl
  | stream sc selected => rw [← selected]; rfl
  | crc16 | byteStep | round => simp [Sys2Proof.decode, u16Bytes, high_append_low]
  | finish => simp [Sys2Proof.decode, u16Bytes, high_append_low, captureOfList_toList]
  | validate frame => exact decodeFrame_eq_ok.2 ⟨frame, rfl⟩
  | crcBad frame differ => exact decode_verdict_eq_ok.2 ⟨frame, if_neg differ⟩
  | crcOk frame equal => exact decode_verdict_eq_ok.2 ⟨frame, if_pos equal⟩
  | decode frame => exact decode_decode_eq_ok.2 ⟨frame, rfl⟩
  | tag tc frame selected => exact decode_tag_eq_ok.2 ⟨frame, congrArg _ selected⟩
  | field k frame hi91 => exact (if_pos frame).trans (if_pos hi91)

theorem decodes_of_decode {c : Code} {i : Instr} (h : decode c = .ok i) : Decodes c i := by
  obtain ⟨sel, bytes⟩ := c
  cases sel with
  | reset => obtain ⟨rfl, rfl⟩ := decodeBare_eq_ok.1 h; exact .reset
  | resetSerial => obtain ⟨rfl, rfl⟩ := decodeBare_eq_ok.1 h; exact .resetSerial
  | scan => obtain ⟨rfl, rfl⟩ := decodeBare_eq_ok.1 h; exact .scan
  | feed => cases h; exact .feed bytes
  | feedSerial => cases h; exact .feedSerial bytes
  | append => cases h; exact .append bytes
  | stream => cases h; exact .stream _ rfl
  | crc16 =>
    match bytes, h with
    | lo :: hi :: bytes, h =>
      cases h
      have hcode := Decodes.crc16 (hi ++ lo) bytes
      rwa [u16Bytes_append] at hcode
  | byteStep =>
    match bytes, h with
    | [lo, hi, b], h =>
      cases h
      have hcode := Decodes.byteStep (hi ++ lo) b
      rwa [u16Bytes_append] at hcode
  | round =>
    match bytes, h with
    | [lo, hi], h => cases h; exact u16Bytes_append hi lo ▸ Decodes.round (hi ++ lo)
  | validate => obtain ⟨frame, rfl⟩ := decodeFrame_eq_ok.1 h; exact .validate frame
  | verdict =>
    obtain ⟨frame, rfl⟩ := decode_verdict_eq_ok.1 h
    split_ifs with equal
    · exact .crcOk frame equal
    · exact .crcBad frame equal
  | decode => obtain ⟨frame, rfl⟩ := decode_decode_eq_ok.1 h; exact .decode frame
  | tag => obtain ⟨frame, rfl⟩ := decode_tag_eq_ok.1 h; exact .tag _ frame rfl
  | field k =>
    simp only [Sys2Proof.decode] at h
    split_ifs at h with frame hi91
    cases h
    exact .field k frame hi91
  | byte =>
    match bytes, h with
    | [b], h => cases h; exact .byte b
  | state st =>
    match bytes, h with
    | [b], h => cases h; exact .state st b
  | finish =>
    match bytes, h with
    | a0 :: a1 :: r0 :: r1 :: l0 :: l1 :: cap, h =>
      simp only [Sys2Proof.decode] at h
      split_ifs at h with hcap
      cases h
      have hcode := Decodes.finish (a1 ++ a0) (r1 ++ r0) (l1 ++ l0) (captureOfList cap)
      rwa [u16Bytes_append, u16Bytes_append, u16Bytes_append, toList_captureOfList hcap] at hcode

theorem decode_eq_ok {c : Code} {i : Instr} : decode c = .ok i ↔ Decodes c i :=
  ⟨decodes_of_decode, decode_of_decodes⟩

/-! ## The codes of payloads in their frames -/

theorem Decodes.tag_mkFrame (tc : TagCase) {p : List Byte} (hp : p.length ≤ maxLen) (selected : tagCase p = tc) :
    Decodes ⟨.tag, mkFrame p⟩ (tagCaseInstr p tc) := by
  have hcode := Decodes.tag tc (candidateFrame_mkFrame hp)
  rw [framePayload_mkFrame] at hcode
  exact hcode selected

theorem Decodes.field_mkFrame (k : Hi91Field) {p : List Byte} (hi91 : Hi91Payload p) :
    Decodes ⟨.field k, mkFrame p⟩ (fieldInstr p k) := by
  have ⟨_, _, hmax⟩ := hi91
  have hcode := Decodes.field k (candidateFrame_mkFrame hmax)
  rw [framePayload_mkFrame] at hcode
  exact hcode hi91

/-- A well-formed operation is what its encoding stands for. -/
theorem decodes_encode {i : Instr} (h : i.WellFormed) : Decodes (encode i) i := by
  cases i with
  | reset => exact .reset
  | feed chunk => exact .feed chunk
  | append chunk => exact .append chunk
  | scan => exact .scan
  | extract => exact .stream .extract (by decide)
  | wait => exact .stream .wait (by decide)
  | resync => exact .stream .resync (by decide)
  | scanEnd => exact .stream .scanEnd (by decide)
  | crc16 seed bytes => exact .crc16 seed bytes
  | byteStep crc b => exact .byteStep crc b
  | round c => exact .round c
  | validate f => exact .validate h
  | crcBad f => exact .crcBad h.1 h.2
  | crcOk f => exact .crcOk h.1 h.2
  | decode p => exact .decode (candidateFrame_mkFrame h)
  | empty => exact .tag_mkFrame .empty (p := []) (Nat.zero_le _) (tagCase_eq_empty.2 rfl)
  | hi91 p =>
    obtain ⟨htag, hlen, hmax⟩ := h
    exact .tag_mkFrame .hi91 hmax (tagCase_eq_hi91.2 ⟨htag, hlen⟩)
  | hi91Short p =>
    have ⟨_, _, hshort⟩ := h
    exact .tag_mkFrame .hi91Short (hshort.le.trans (by decide)) (tagCase_eq_hi91Short.2 h)
  | unknown p =>
    obtain ⟨htag, hlen, hmax⟩ := h
    exact .tag_mkFrame .unknown hmax (tagCase_eq_unknown.2 ⟨htag, hlen⟩)
  | hi91SyncTime p => exact .field_mkFrame .syncTime h
  | hi91Temperature p => exact .field_mkFrame .temperature h
  | hi91Pressure p => exact .field_mkFrame .pressure h
  | hi91SystemTimeMs p => exact .field_mkFrame .systemTimeMs h
  | hi91Acc p => exact .field_mkFrame .acc h
  | hi91Gyr p => exact .field_mkFrame .gyr h
  | hi91Mag p => exact .field_mkFrame .mag h
  | hi91Roll p => exact .field_mkFrame .roll h
  | hi91Pitch p => exact .field_mkFrame .pitch h
  | hi91Yaw p => exact .field_mkFrame .yaw h
  | hi91Quat p => exact .field_mkFrame .quat h
  | byte b => exact .byte b
  | byteHunt1 b => exact .state .hunt1 b
  | byteHunt2 b => exact .state .hunt2 b
  | byteLenLo b => exact .state .lenLo b
  | byteLenHi b => exact .state .lenHi b
  | byteCrcLo b => exact .state .crcLo b
  | byteCrcHi b => exact .state .crcHi b
  | bytePayload b => exact .state .payload b
  | finish acc rx len cap => exact .finish acc rx len cap
  | feedSerial chunk => exact .feedSerial chunk
  | resetSerial => exact .resetSerial

/-! ## What the maps select is well formed -/

theorem wellFormed_scanCaseInstr (sc : ScanCase) : (scanCaseInstr sc).WellFormed := by
  cases sc <;> trivial

theorem wellFormed_stateInstr (b : Byte) (st : SerialSt) : (stateInstr b st).WellFormed := by
  cases st <;> trivial

theorem wellFormed_fieldInstr {p : List Byte} (h : Hi91Payload p) (k : Hi91Field) : (fieldInstr p k).WellFormed := by
  cases k <;> exact h

theorem wellFormed_tagCaseInstr {p : List Byte} {tc : TagCase} (hp : p.length ≤ maxLen) (h : tagCase p = tc) :
    (tagCaseInstr p tc).WellFormed := by
  cases tc with
  | empty => trivial
  | hi91 =>
    obtain ⟨htag, hlen⟩ := tagCase_eq_hi91.1 h
    exact ⟨htag, hlen, hp⟩
  | hi91Short => exact tagCase_eq_hi91Short.1 h
  | unknown =>
    obtain ⟨htag, hlen⟩ := tagCase_eq_unknown.1 h
    exact ⟨htag, hlen, hp⟩

theorem Decodes.wellFormed {c : Code} {i : Instr} (h : Decodes c i) : i.WellFormed := by
  cases h with
  | reset | feed | resetSerial | feedSerial | append | scan | crc16 | byteStep | round | byte | finish => trivial
  | stream sc => exact wellFormed_scanCaseInstr sc
  | validate frame => exact frame
  | crcBad frame differ => exact ⟨frame, differ⟩
  | crcOk frame equal => exact ⟨frame, equal⟩
  | decode frame => exact length_framePayload_le frame
  | tag tc frame selected => exact wellFormed_tagCaseInstr (length_framePayload_le frame) selected
  | field k _ hi91 => exact wellFormed_fieldInstr hi91 k
  | state st b => exact wellFormed_stateInstr b st

/-! ## What the maps select has its row's match -/

/-- The window of a code's bytes has the match of the operation's row under the row's mask. -/
def MatchesRow (bytes : List Byte) (i : Instr) : Prop := window bytes &&& i.tableMask = i.tableMatch

theorem matchesRow_scanCaseInstr {buf : List Byte} {sc : ScanCase} (h : scanCase buf = sc) :
    MatchesRow buf (scanCaseInstr sc) := by
  cases sc with
  | scanEnd | resync => exact BitVec.and_zero
  | wait =>
    obtain ⟨_, hsync, _⟩ := scanCase_eq_wait.1 h
    exact window_of_syncAtHead hsync
  | extract =>
    obtain ⟨_, hsync, _⟩ := scanCase_eq_extract.1 h
    exact window_of_syncAtHead hsync

theorem matchesRow_tagCaseInstr {f : List Byte} {tc : TagCase} (frame : CandidateFrame f)
    (h : tagCase (framePayload f) = tc) : MatchesRow f (tagCaseInstr (framePayload f) tc) := by
  have hsync : SyncAtHead f := syncAtHead_of_candidateFrame frame
  cases tc with
  | empty => exact window_of_empty hsync ((length_framePayload frame).symm.trans (tagCase_eq_empty.1 h))
  | hi91 => exact window_of_hi91 hsync (tagCase_eq_hi91.1 h).1
  | hi91Short => exact window_of_hi91 hsync (tagCase_eq_hi91Short.1 h).1
  | unknown => exact window_of_syncAtHead hsync

theorem matchesRow_fieldInstr {f : List Byte} (hsync : SyncAtHead f) (hi91 : Hi91Payload (framePayload f))
    (k : Hi91Field) : MatchesRow f (fieldInstr (framePayload f) k) := by
  have hrow : window f &&& 0xFFFF00000000FF = 0x5AA50000000091 := window_of_hi91 hsync hi91.1
  cases k <;> exact hrow

theorem matchesRow_stateInstr (bytes : List Byte) (b : Byte) (st : SerialSt) : MatchesRow bytes (stateInstr b st) := by
  cases st <;> exact BitVec.and_zero

theorem Decodes.matchesRow {c : Code} {i : Instr} (h : Decodes c i) : MatchesRow c.bytes i := by
  cases h with
  | reset | feed | resetSerial | feedSerial | append | scan | crc16 | byteStep | round | byte | finish =>
    exact BitVec.and_zero
  | stream _ selected => exact matchesRow_scanCaseInstr selected
  | validate frame | crcBad frame | crcOk frame | decode frame =>
    exact window_of_syncAtHead (syncAtHead_of_candidateFrame frame)
  | tag _ frame selected => exact matchesRow_tagCaseInstr frame selected
  | field k frame hi91 => exact matchesRow_fieldInstr (syncAtHead_of_candidateFrame frame) hi91 k
  | state st b => exact matchesRow_stateInstr _ b st

/-! ## Where encoding gives the code back -/

theorem Decodes.encode_eq {c : Code} {i : Instr} (h : Decodes c i) (hstream : c.sel ≠ .stream) (htag : c.sel ≠ .tag)
    (hdecode : c.sel ≠ .decode) (hfield : c.sel.format ≠ .hi91Field) : encode i = c := by
  cases h with
  | reset | feed | resetSerial | feedSerial | append | scan | crc16 | byteStep | round | validate | crcBad | crcOk | byte
  | finish => rfl
  | state st => cases st <;> rfl
  | stream => exact absurd rfl hstream
  | tag => exact absurd rfl htag
  | decode => exact absurd rfl hdecode
  | field => exact absurd rfl hfield

theorem decodeTableWord_of_decodes {nbits w : Nat} {c : Code} {i : Instr} (hcode : codeOfTableWord nbits w = c)
    (h : Decodes c i) : decodeTableWord nbits w = some i := by
  rw [decodeTableWord, hcode, decode_of_decodes h]

end Sys2Proof
end

section
/-! SUPPORT. The statements of 30_encoding.md, settled. -/

namespace Sys2Proof.Proofs

open Machine

/-- Settles O50: the decoder answers exactly on `Decodes`, and `decodes_encode` places every encoding there. -/
theorem decodeOfEncodeIsTheOperation : Obligations.DecodeOfEncodeIsTheOperation :=
  fun _ h => decode_eq_ok.2 (decodes_encode h)

/-- Settles O51: each selector's own condition is its row's operand condition. -/
theorem decodedOperationsAreWellFormed : Obligations.DecodedOperationsAreWellFormed :=
  fun _ _ h => (decode_eq_ok.1 h).wellFormed

/-- Settles O52: the four kinds of selector left out are the ones whose operations keep less than their bytes. -/
theorem encodeOfDecodeIsTheCode : Obligations.EncodeOfDecodeIsTheCode :=
  fun _ _ h => (decode_eq_ok.1 h).encode_eq

/-- Settles O53: a row with a mask stands behind the sync pair, EMPTY behind a length of 0 too, the HI91 rows behind the tag. -/
theorem decodedBytesMatchTheTable : Obligations.DecodedBytesMatchTheTable :=
  fun _ _ h => (decode_eq_ok.1 h).matchesRow

/-- Settles O54: each clause's condition is the one under which its map selects the row. -/
theorem mapsSelectByTheTable : Obligations.MapsSelectByTheTable := by
  constructor
  · intro b
    exact
      ⟨fun hlen => decode_eq_ok.2 (.stream .scanEnd (scanCase_eq_scanEnd.2 hlen)),
        fun hlen hsync => decode_eq_ok.2 (.stream .resync (scanCase_eq_resync.2 ⟨hlen, hsync⟩)),
        fun hlen h0 h1 hpart => decode_eq_ok.2 (.stream .wait (scanCase_eq_wait.2 ⟨hlen, ⟨h0, h1⟩, hpart⟩)),
        fun hlen h0 h1 hall => decode_eq_ok.2 (.stream .extract (scanCase_eq_extract.2 ⟨hlen, ⟨h0, h1⟩, hall⟩))⟩
  · intro f hlen h0 h1 htotal
    have frame : CandidateFrame f := ⟨hlen, ⟨h0, h1⟩, htotal⟩
    have hpayload : (framePayload f).length = (le16 f 2).toNat := length_framePayload frame
    have htag : byteAt (framePayload f) 0 = byteAt f 6 := byteAt_framePayload f 0
    rw [← hpayload, ← htag]
    exact
      ⟨fun differ => decode_eq_ok.2 (.crcBad frame differ),
        fun equal => decode_eq_ok.2 (.crcOk frame equal),
        fun hempty => decode_eq_ok.2 (.tag .empty frame (tagCase_eq_empty.2 hempty)),
        fun hlong hhi91 => decode_eq_ok.2 (.tag .hi91 frame (tagCase_eq_hi91.2 ⟨hhi91, hlong⟩)),
        fun hone hshort hhi91 =>
          decode_eq_ok.2 (.tag .hi91Short frame (tagCase_eq_hi91Short.2 ⟨hhi91, hone, Nat.lt_succ_of_le hshort⟩)),
        fun hone hother => decode_eq_ok.2 (.tag .unknown frame (tagCase_eq_unknown.2 ⟨hother, hone⟩))⟩

/-- Settles O55: each word enters its map by the bytes it is written with, and the map's condition holds of them. -/
theorem sampleWordsDecode : Obligations.SampleWordsDecode :=
  ⟨decodeTableWord_of_decodes (c := ⟨.stream, [0, 0, 0, 0, 0, 0, 0]⟩) (by decide) (.stream .resync (by decide)),
    decodeTableWord_of_decodes (c := ⟨.tag, [0x5A, 0xA5, 0, 0, 0, 0]⟩) (by decide) (.tag .empty (by decide) (by decide)),
    decodeTableWord_of_decodes (c := ⟨.tag, [0x5A, 0xA5, 1, 0, 0, 0, 0x91]⟩) (by decide)
      (.tag .hi91Short (by decide) (by decide)),
    decodeTableWord_of_decodes (c := ⟨.tag, [0x5A, 0xA5, 1, 0, 0, 0, 0x92]⟩) (by decide)
      (.tag .unknown (by decide) (by decide)),
    decode_eq_ok.2 (.crcOk (by decide) (by decide +kernel)),
    decode_eq_ok.2 (.crcBad (by decide) (by decide +kernel)),
    decode_eq_ok.2 (.stream .wait (by decide))⟩

end Sys2Proof.Proofs
end

section
/-! SUPPORT. Facts for 40_crc_engine.md: ROUND bit by bit (R82), its linearity and its inverse (R87), BYTESTEP as the eighth power of
ROUND (R81), CRC16 as a fold (R80, R85), and the wider unmasked register (R83). -/

namespace Sys2Proof.Machine

/-! ## ROUND (R82) -/

theorem getLsbD_crcPoly : ∀ k < 16, crcPoly.getLsbD k = decide (k = 0 ∨ k = 5 ∨ k = 12) := by decide

/-- ROUND without its branch: the shifted register, and the polynomial folded in under bit 15. -/
theorem crcRound_eq_xor (c : U16) : crcRound c = c <<< 1 ^^^ (if c.getLsbD 15 then crcPoly else 0#16) := by
  have hmsb : c.msb = c.getLsbD 15 := BitVec.msb_eq_getLsbD_last c
  rw [crcRound, hmsb]
  split
  · rfl
  · rw [BitVec.xor_zero]

/-- The next-state equations of R82 in one: bit `k` is the bit below it, folded with bit 15 where the polynomial has a bit. -/
theorem getLsbD_crcRound (c : U16) {k : Nat} (hk : k < 16) :
    (crcRound c).getLsbD k = ((decide (1 ≤ k) && c.getLsbD (k - 1)) ^^ (crcPoly.getLsbD k && c.getLsbD 15)) := by
  have hshift : (c <<< 1).getLsbD k = (decide (1 ≤ k) && c.getLsbD (k - 1)) := by
    simp [-BitVec.getLsbD_eq_getElem, hk, Nat.one_le_iff_ne_zero]
  rw [crcRound_eq_xor, BitVec.getLsbD_xor, hshift]
  cases c.getLsbD 15 <;> simp

/-- R87: from `c' = ROUND(c)`, `c[15] = c'[0]`. -/
theorem getLsbD_zero_crcRound (c : U16) : (crcRound c).getLsbD 0 = c.getLsbD 15 := by
  rw [getLsbD_crcRound c (by decide), getLsbD_crcPoly 0 (by decide)]
  exact Bool.false_xor _

theorem getLsbD_succ_crcRound (c : U16) {k : Nat} (hk : k < 15) :
    (crcRound c).getLsbD (k + 1) = (c.getLsbD k ^^ (crcPoly.getLsbD (k + 1) && c.getLsbD 15)) := by
  rw [getLsbD_crcRound c (k := k + 1) (by omega), decide_eq_true (Nat.le_add_left 1 k), Bool.true_and, Nat.add_sub_cancel]

/-- R87: from `c' = ROUND(c)`, `c[14:0]` is `c'` with the polynomial taken off again where `c'[0] = 1`, shifted back. -/
theorem getLsbD_eq_crcRound_succ (c : U16) {k : Nat} (hk : k < 15) :
    c.getLsbD k = (crcRound c ^^^ (if (crcRound c).getLsbD 0 then crcPoly else 0#16)).getLsbD (k + 1) := by
  rw [getLsbD_zero_crcRound, BitVec.getLsbD_xor, getLsbD_succ_crcRound c hk]
  cases c.getLsbD 15 <;> simp

/-- R87: ROUND is linear over GF(2). -/
theorem crcRound_xor (x y : U16) : crcRound (x ^^^ y) = crcRound x ^^^ crcRound y := by
  refine BitVec.eq_of_getLsbD_eq fun k hk => ?_
  simp only [BitVec.getLsbD_xor, getLsbD_crcRound _ hk, Bool.and_xor_distrib_left, Bool.xor_assoc, Bool.xor_left_comm]

theorem crcRound_injective : Function.Injective crcRound := by
  intro c d h
  refine BitVec.eq_of_getLsbD_eq fun k hk => ?_
  obtain hlow | rfl : k < 15 ∨ k = 15 := by omega
  · rw [getLsbD_eq_crcRound_succ c hlow, getLsbD_eq_crcRound_succ d hlow, h]
  · rw [← getLsbD_zero_crcRound c, ← getLsbD_zero_crcRound d, h]

theorem crcRound_bijective : Function.Bijective crcRound := Finite.injective_iff_bijective.1 crcRound_injective

/-! ## Several rounds -/

theorem crcRounds_eq_iterate (n : Nat) (c : U16) : crcRounds n c = crcRound^[n] c := by
  induction n generalizing c with
  | zero => rfl
  | succ n ih => exact ih (crcRound c)

theorem crcRounds_xor (n : Nat) (x y : U16) : crcRounds n (x ^^^ y) = crcRounds n x ^^^ crcRounds n y := by
  induction n generalizing x y with
  | zero => rfl
  | succ n ih => simp only [crcRounds, crcRound_xor, ih]

theorem crcRounds_bijective (n : Nat) : Function.Bijective (crcRounds n) := by
  rw [funext (crcRounds_eq_iterate n)]
  exact crcRound_bijective.iterate n

/-! ## BYTESTEP (R81) -/

/-- `b << 8` as a u16: the byte stands in bits 15:8. -/
theorem append_zero_byte_eq_shiftLeft (b : Byte) : b ++ (0 : Byte) = b.setWidth 16 <<< 8 := by
  rw [BitVec.append_def, BitVec.shiftLeftZeroExtend_eq]
  exact BitVec.or_zero

theorem crcByteStep_eq_iterate (crc : U16) (b : Byte) :
    crcByteStep crc b = crcRound^[8] (crc ^^^ (b.setWidth 16 <<< 8)) := by
  rw [crcByteStep, crcRounds_eq_iterate, append_zero_byte_eq_shiftLeft]

/-- R86: a zero byte is no change of the register before its rounds. -/
theorem crcByteStep_zero_right (crc : U16) : crcByteStep crc 0 = crcRounds 8 crc :=
  congrArg (crcRounds 8) (BitVec.xor_zero : crc ^^^ 0#16 = crc)

theorem crcByteStep_zero_zero : crcByteStep 0 0 = 0 := by decide

/-- R87, consequence (a): a difference in the register goes through BYTESTEP on its own, as with a zero byte. -/
theorem crcByteStep_xor (x d : U16) (b : Byte) : crcByteStep (x ^^^ d) b = crcByteStep x b ^^^ crcByteStep d 0 := by
  have hswap : x ^^^ d ^^^ (b ++ (0 : Byte)) = x ^^^ (b ++ (0 : Byte)) ^^^ d := by ac_rfl
  rw [crcByteStep_zero_right, crcByteStep, crcByteStep, hswap, crcRounds_xor]

theorem crcByteStep_bijective (b : Byte) : Function.Bijective fun crc => crcByteStep crc b :=
  (crcRounds_bijective 8).comp
    (Finite.injective_iff_bijective.1 fun _ _ h => (BitVec.xor_left_inj (b ++ (0 : Byte))).1 h)

theorem crcByteStep_injective (crc : U16) : Function.Injective (crcByteStep crc) := by
  intro a b h
  have hregister : crc ^^^ (a ++ (0 : Byte)) = crc ^^^ (b ++ (0 : Byte)) := (crcRounds_bijective 8).injective h
  have hplaced : a ++ (0 : Byte) = b ++ (0 : Byte) := (BitVec.xor_right_inj crc).1 hregister
  calc
    a = (a ++ (0 : Byte)).extractLsb' 8 8 := BitVec.extractLsb'_append_eq_left.symm
    _ = (b ++ (0 : Byte)).extractLsb' 8 8 := by rw [hplaced]
    _ = b := BitVec.extractLsb'_append_eq_left

/-! ## CRC16 (R80) -/

theorem crc16_append (seed : U16) (a b : List Byte) : crc16 seed (a ++ b) = crc16 (crc16 seed a) b :=
  List.foldl_append

theorem crc16_replicate_zero (n : Nat) : crc16 0 (List.replicate n 0) = 0 := by
  induction n with
  | zero => rfl
  | succ n ih => rw [List.replicate_succ, crc16_cons, crcByteStep_zero_zero, ih]

/-- Different registers stay different over the same bytes. -/
theorem crc16_injective (bytes : List Byte) : Function.Injective fun seed => crc16 seed bytes := by
  induction bytes with
  | nil => exact Function.injective_id
  | cons b bs ih => exact ih.comp (crcByteStep_bijective b).injective

/-- R87, consequence (b): one changed byte changes the CRC. -/
theorem crc16_ne_of_byte_ne (seed : U16) (l m : List Byte) {x y : Byte} (h : x ≠ y) :
    crc16 seed (l ++ x :: m) ≠ crc16 seed (l ++ y :: m) := by
  rw [crc16_append, crc16_append, crc16_cons, crc16_cons]
  exact (crc16_injective m).ne ((crcByteStep_injective _).ne h)

/-- The covered data of a frame begins with the frame (R111). -/
theorem byteAt_coveredBytes {f : List Byte} (hlen : crcOff ≤ f.length) {o : Nat} (ho : o < crcOff) :
    byteAt (coveredBytes f) o = byteAt f o := by
  rw [coveredBytes, byteAt_append_left (by rw [List.length_take]; omega), byteAt_take ho]

/-! ## The wider register (R83) -/

theorem setWidth_wideRound (c : BitVec 32) : (wideRound c).setWidth 16 = crcRound (c.setWidth 16) := by
  have hcut : (c <<< 1).setWidth 16 = c.setWidth 16 <<< 1 := BitVec.setWidth_shiftLeft_of_le (by decide)
  have hbit : (c.setWidth 16).getLsbD 15 = c.getLsbD 15 := by rw [BitVec.getLsbD_setWidth]; exact Bool.true_and _
  rw [crcRound_eq_xor, hbit, wideRound]
  split
  · rw [BitVec.setWidth_xor, hcut]
    rfl
  · rw [hcut, BitVec.xor_zero]

theorem setWidth_wideRounds (n : Nat) (c : BitVec 32) : (wideRounds n c).setWidth 16 = crcRounds n (c.setWidth 16) := by
  induction n generalizing c with
  | zero => rfl
  | succ n ih => rw [wideRounds, crcRounds, ih, setWidth_wideRound]

/-! ## The function rows -/

theorem exec_round (c : U16) (s : State) : exec (.round c) s = .next { s with ret := some (.u16 (crcRound c)) } := rfl

theorem exec_byteStep (crc : U16) (b : Byte) (s : State) :
    exec (.byteStep crc b) s = .next { s with ret := some (.u16 (crcByteStep crc b)) } := rfl

theorem exec_crc16 (seed : U16) (bytes : List Byte) (s : State) :
    exec (.crc16 seed bytes) s = .next { s with ret := some (.u16 (crc16 seed bytes)) } := rfl

end Sys2Proof.Machine
end

section
/-! SUPPORT. The statements of 40_crc_engine.md, settled. -/

namespace Sys2Proof.Proofs

open Machine

/-- Settles O24: BYTESTEP inherits linearity and bijectivity from ROUND, and a byte enters it without loss. -/
theorem crcIsLinearAndInvertible : Obligations.CrcIsLinearAndInvertible :=
  ⟨crcRound_xor, crcRound_bijective,
    fun c _ h => h ▸ ⟨(getLsbD_zero_crcRound c).symm, fun _ hk => getLsbD_eq_crcRound_succ c hk⟩,
    crcByteStep_bijective, crcByteStep_injective, crcByteStep_xor,
    fun seed l m _ _ hne => crc16_ne_of_byte_ne seed l m hne⟩

/-- Settles O25: the bits above 15 never reach the test of an unmasked round. -/
theorem maskingOncePerByteIsTheSame : Obligations.MaskingOncePerByteIsTheSame :=
  fun c n => setWidth_wideRounds n c

/-- Settles O19: the equations are `getLsbD_crcRound` at the polynomial's bits 0, 5 and 12 and at a bit it does not have. -/
theorem roundShiftsAndFoldsBitFifteen : Obligations.RoundShiftsAndFoldsBitFifteen := by
  intro s c
  refine ⟨crcRound c, exec_round c s, getLsbD_zero_crcRound c, ?_, ?_, ?_⟩
  · exact getLsbD_succ_crcRound c (k := 4) (by decide)
  · exact getLsbD_succ_crcRound c (k := 11) (by decide)
  · intro k hone hk h5 h12
    have hpoly : crcPoly.getLsbD k = false := by
      rw [getLsbD_crcPoly k (by omega)]
      exact decide_eq_false (by omega)
    rw [getLsbD_crcRound c (by omega), hpoly, decide_eq_true hone, Bool.true_and, Bool.false_and, Bool.xor_false]

/-- Settles O20: the byte that the model appends a zero byte to is R81's `b << 8`. -/
theorem byteStepIsEightRounds : Obligations.ByteStepIsEightRounds := by
  intro s crc b
  rw [exec_byteStep, crcByteStep_eq_iterate]

/-- Settles O21: a byte at the end is one BYTESTEP after the fold over the bytes before it. -/
theorem crcIsByteStepsInOrder : Obligations.CrcIsByteStepsInOrder := by
  intro s seed
  refine ⟨exec_crc16 seed [] s, fun bytes b => ⟨crc16 seed bytes, crcByteStep (crc16 seed bytes) b, ?_, ?_, ?_⟩⟩
  · exact exec_crc16 seed bytes s
  · exact exec_byteStep _ b s
  · rw [exec_crc16, crc16_append, crc16_cons, crc16_nil]

/-- Settles O22: the Validator's value is the CRC of two pieces (R111), taken one after the other. -/
theorem crcChains : Obligations.CrcChains :=
  ⟨crc16_nil, crc16_append, fun f => crc16_append 0 (f.take 4) (f.drop 6)⟩

/-- Settles O23: the covered data begins with SYNC1, the first byte of the frame. -/
theorem leadingZerosDoNotShow : Obligations.LeadingZerosDoNotShow := by
  refine ⟨crcByteStep_zero_zero, crc16_replicate_zero, fun n d => ?_, ?_⟩
  · rw [crc16_append, crc16_replicate_zero]
  · rintro f ⟨hlen, ⟨hsync1, -⟩, -⟩
    rw [byteAt_coveredBytes (Nat.le_trans (by decide) hlen) (by decide), hsync1]
    rfl

end Sys2Proof.Proofs
end

section
/-! SUPPORT. Facts for 41_sync_assembler.md: SCAN and its rows by the case of the head (R92), FEED's loop run by induction along its
iterations, the SCANs it takes (R99), and what it does with appended bytes (R100), frames (R95) and garbage (R107). -/

namespace Sys2Proof.Machine

/-! ## The head of the buffer (R92, R93) -/

theorem frameTotal_eq (s : List Byte) : frameTotal s = 6 + ((byteAt s 2).toNat + 256 * (byteAt s 3).toNat) :=
  congrArg (hdrSize + ·) (le16_toNat s lenOff)

/-- What is left once a complete frame at the head is taken off: at least six bytes fewer. -/
theorem length_drop_frameTotal {buf : List Byte} (h : scanCase buf = .extract) :
    6 ≤ frameTotal buf ∧ (buf.drop (frameTotal buf)).length + frameTotal buf = buf.length := by
  obtain ⟨_, _, hall⟩ := scanCase_eq_extract.1 h
  exact ⟨hdrSize_le_frameTotal buf, by rw [List.length_drop, Nat.sub_add_cancel hall]⟩

theorem length_drop_one {buf : List Byte} (h : scanCase buf = .resync) :
    6 ≤ buf.length ∧ (buf.drop 1).length + 1 = buf.length := by
  obtain ⟨hlen, _⟩ := scanCase_eq_resync.1 h
  exact ⟨hlen, by rw [List.length_drop, Nat.sub_add_cancel (Nat.le_trans (by decide) hlen)]⟩

/-! ## SCAN and its rows, by the case of the head -/

theorem exec_scan_of_quiescent {s : State} (h : Quiescent s.buf) : exec .scan s = .next s.endLoop := by
  show execScan s = _
  rcases quiescent_iff.1 h with hc | hc <;> rw [execScan, hc]

theorem exec_scan_of_extract {s : State} (h : scanCase s.buf = .extract) : exec .scan s = .next s.extractHead := by
  show execScan s = _
  rw [execScan, h]

theorem exec_scan_of_resync {s : State} (h : scanCase s.buf = .resync) : exec .scan s = .next (s.dropHead 1) := by
  show execScan s = _
  rw [execScan, h]

/-- What a SCAN can do: end the loop at a quiescent buffer, extract a frame or drop a byte. -/
theorem exec_scan_cases (s : State) :
    (Quiescent s.buf ∧ exec .scan s = .next s.endLoop) ∨
      (scanCase s.buf = .extract ∧ exec .scan s = .next s.extractHead) ∨
      (scanCase s.buf = .resync ∧ exec .scan s = .next (s.dropHead 1)) := by
  cases hc : scanCase s.buf with
  | scanEnd => exact .inl ⟨quiescent_iff.2 (.inl hc), exec_scan_of_quiescent (quiescent_iff.2 (.inl hc))⟩
  | wait => exact .inl ⟨quiescent_iff.2 (.inr hc), exec_scan_of_quiescent (quiescent_iff.2 (.inr hc))⟩
  | extract => exact .inr (.inl ⟨rfl, exec_scan_of_extract hc⟩)
  | resync => exact .inr (.inr ⟨rfl, exec_scan_of_resync hc⟩)

/-- The row of the case at the head does what SCAN does. -/
theorem exec_scanCaseInstr_of_eq {s : State} {c : ScanCase} (h : scanCase s.buf = c) :
    exec (scanCaseInstr c) s = exec .scan s := by
  cases c with
  | scanEnd => exact (whenSelected_of h).trans (exec_scan_of_quiescent (quiescent_iff.2 (.inl h))).symm
  | wait => exact (whenSelected_of h).trans (exec_scan_of_quiescent (quiescent_iff.2 (.inr h))).symm
  | extract => exact (whenSelected_of h).trans (exec_scan_of_extract h).symm
  | resync => exact (whenSelected_of h).trans (exec_scan_of_resync h).symm

/-- The row of another case is not selected (log 13). -/
theorem exec_scanCaseInstr_of_ne {s : State} {c : ScanCase} (h : scanCase s.buf ≠ c) :
    ∃ m, exec (scanCaseInstr c) s = .refused (.notSelected m) := by
  cases c <;> exact ⟨_, whenSelected_of_not h⟩

theorem mem_streamRows_iff {i : Instr} :
    i ∈ [Instr.scanEnd, .wait, .extract, .resync] ↔ ∃ c, scanCaseInstr c = i := by
  constructor
  · intro h
    simp only [List.mem_cons, List.not_mem_nil, or_false] at h
    obtain rfl | rfl | rfl | rfl := h
    · exact ⟨.scanEnd, rfl⟩
    · exact ⟨.wait, rfl⟩
    · exact ⟨.extract, rfl⟩
    · exact ⟨.resync, rfl⟩
  · rintro ⟨c, rfl⟩
    cases c <;> simp [scanCaseInstr]

/-! ## FEED's loop on a buffer (R90) -/

theorem scanAll_of_quiescent {buf : List Byte} (h : Quiescent buf) : scanAll buf = (buf, []) :=
  scanAll_stop (quiescent_iff.1 h)

/-- Induction along the iterations of FEED's loop: each but the last leaves a shorter buffer (R99). -/
theorem scan_induction {P : List Byte → Prop} (stop : ∀ buf, Quiescent buf → P buf)
    (extract : ∀ buf, scanCase buf = .extract → P (buf.drop (frameTotal buf)) → P buf)
    (resync : ∀ buf, scanCase buf = .resync → P (buf.drop 1) → P buf) (buf : List Byte) : P buf :=
  match hc : scanCase buf with
  | .scanEnd => stop buf (quiescent_iff.2 (.inl hc))
  | .wait => stop buf (quiescent_iff.2 (.inr hc))
  | .extract => extract buf hc (scan_induction stop extract resync _)
  | .resync => resync buf hc (scan_induction stop extract resync _)
termination_by buf.length
decreasing_by
  · have := length_drop_frameTotal hc
    omega
  · have := length_drop_one hc
    omega

theorem exec_feed_of_scanAll {s : State} {chunk buf : List Byte} {ev : List Event} (hidle : s.scanning = false)
    (hrun : scanAll (s.buf ++ chunk) = (buf, ev)) : exec (.feed chunk) s = .next { s with buf := buf, ev := ev } := by
  rw [exec_feed_of_idle chunk hidle, feedBuffer_eq_scanAll, hrun]

/-- The same from an empty buffer, as a FEED that leaves it empty. -/
theorem exec_feed_of_empty {s : State} {chunk : List Byte} {ev : List Event} (hidle : s.scanning = false) (hbuf : s.buf = [])
    (hrun : scanAll chunk = ([], ev)) : exec (.feed chunk) s = .next { s with ev := ev } := by
  have hstays : scanAll (s.buf ++ chunk) = (s.buf, ev) := by rw [hbuf]; exact hrun
  exact exec_feed_of_scanAll hidle hstays

theorem feedBuffer_nil {buf : List Byte} (h : Quiescent buf) : feedBuffer buf [] = (buf, []) := by
  rw [feedBuffer_eq_scanAll, List.append_nil, scanAll_of_quiescent h]

/-! ## The SCANs of one FEED (R99) -/

/-- After `k` SCANs and not before, the loop that runs in `s` has ended, in `t`. -/
def LoopEndsAfter (k : Nat) (s t : State) : Prop :=
  t.scanning = false ∧ execAll (List.replicate k .scan) s = .next t ∧
    ∀ j < k, ∃ u, execAll (List.replicate j .scan) s = .next u ∧ u.scanning = true

theorem LoopEndsAfter.zero {s : State} (h : s.scanning = false) : LoopEndsAfter 0 s s := ⟨h, rfl, nofun⟩

theorem LoopEndsAfter.succ {k : Nat} {s u t : State} (hrunning : s.scanning = true) (hscan : exec .scan s = .next u)
    (h : LoopEndsAfter k u t) : LoopEndsAfter (k + 1) s t := by
  obtain ⟨hended, hrun, hbefore⟩ := h
  refine ⟨hended, execAll_cons_eq_next.2 ⟨u, hscan, hrun⟩, fun j hj => ?_⟩
  cases j with
  | zero => exact ⟨s, rfl, hrunning⟩
  | succ j =>
    obtain ⟨v, hv, hvrunning⟩ := hbefore j (Nat.lt_of_succ_lt_succ hj)
    exact ⟨v, execAll_cons_eq_next.2 ⟨u, hscan, hv⟩, hvrunning⟩

/-- A running loop in a state `s`, run to its end. -/
def State.afterLoop (s : State) : State :=
  { s with buf := (scanAll s.buf).1, ev := s.ev ++ (scanAll s.buf).2, scanning := false }

theorem afterLoop_of_quiescent {s : State} (h : Quiescent s.buf) : s.afterLoop = s.endLoop := by
  rw [State.afterLoop, scanAll_of_quiescent h, List.append_nil]
  rfl

theorem afterLoop_extractHead {s : State} (h : scanCase s.buf = .extract) : s.extractHead.afterLoop = s.afterLoop := by
  rw [State.afterLoop, State.afterLoop, scanAll_extract h, extractHead_ev, List.append_assoc]
  rfl

theorem afterLoop_dropHead {s : State} (h : scanCase s.buf = .resync) : (s.dropHead 1).afterLoop = s.afterLoop := by
  rw [State.afterLoop, State.afterLoop, scanAll_resync h]
  rfl

/-- A running loop ends, within the bound of R99: one SCAN for each byte that can go by RESYNC, and one to stop. -/
theorem exists_loopEndsAfter (s : State) (hrunning : s.scanning = true) :
    ∃ k, 1 ≤ k ∧ k ≤ max 1 (s.buf.length - 4) ∧ LoopEndsAfter k s s.afterLoop := by
  induction hbuf : s.buf using scan_induction generalizing s with
  | stop buf hq =>
    subst hbuf
    refine ⟨1, le_rfl, le_max_left _ _, .succ hrunning (exec_scan_of_quiescent hq) ?_⟩
    rw [afterLoop_of_quiescent hq]
    exact .zero rfl
  | extract buf hc ih =>
    subst hbuf
    obtain ⟨k, _, hle, hends⟩ := ih s.extractHead hrunning rfl
    rw [afterLoop_extractHead hc] at hends
    have hlen := length_drop_frameTotal hc
    exact ⟨k + 1, by omega, by omega, .succ hrunning (exec_scan_of_extract hc) hends⟩
  | resync buf hc ih =>
    subst hbuf
    obtain ⟨k, _, hle, hends⟩ := ih (s.dropHead 1) hrunning rfl
    rw [afterLoop_dropHead hc] at hends
    have hlen := length_drop_one hc
    exact ⟨k + 1, by omega, by omega, .succ hrunning (exec_scan_of_resync hc) hends⟩

theorem exec_append_of_idle {s : State} (chunk : List Byte) (h : s.scanning = false) :
    exec (.append chunk) s = .next { s.appendTail chunk with scanning := true } :=
  whenQuiescent_of h

/-- APPEND and then SCAN until the loop ends answers what FEED's recursion computes. -/
theorem exists_append_scans {s : State} (chunk : List Byte) (hidle : s.scanning = false) :
    ∃ k, 1 ≤ k ∧ k ≤ max 1 (s.buf.length + chunk.length - 4) ∧
      execAll (.append chunk :: List.replicate k .scan) s =
        .next { s with buf := (feedBuffer s.buf chunk).1, ev := s.ev ++ (feedBuffer s.buf chunk).2 } ∧
      ∀ j < k, ∃ u, execAll (.append chunk :: List.replicate j .scan) s = .next u ∧ u.scanning = true := by
  have happend := exec_append_of_idle chunk hidle
  obtain ⟨k, hpos, hle, -, hrun, hbefore⟩ := exists_loopEndsAfter { s.appendTail chunk with scanning := true } rfl
  refine ⟨k, hpos, ?_, ?_, fun j hj => ?_⟩
  · exact hle.trans_eq (by rw [appendTail_buf, List.length_append])
  · refine (execAll_cons_eq_next.2 ⟨_, happend, hrun⟩).trans ?_
    rw [State.afterLoop, ← hidle]
    rfl
  · obtain ⟨u, hu, hurunning⟩ := hbefore j hj
    exact ⟨u, execAll_cons_eq_next.2 ⟨_, happend, hu⟩, hurunning⟩

/-! ## Appended bytes (R100) -/

/-- Bytes that come in behind `x` are scanned after all that `x` alone gives, on what it leaves. -/
theorem scanAll_append (x y : List Byte) :
    scanAll (x ++ y) =
      ((scanAll ((scanAll x).1 ++ y)).1, (scanAll x).2 ++ (scanAll ((scanAll x).1 ++ y)).2) := by
  induction x using scan_induction with
  | stop x hq =>
    rw [scanAll_of_quiescent hq]
    rfl
  | extract x hc ih =>
    obtain ⟨hlen, _, hall⟩ := scanCase_eq_extract.1 hc
    rw [scanAll_extract (scanCase_append_extract hc), scanAll_extract hc, frameTotal_append hlen,
      List.drop_append_of_le_length hall, List.take_append_of_le_length hall, ih]
    rfl
  | resync x hc ih =>
    obtain ⟨hlen, _⟩ := scanCase_eq_resync.1 hc
    rw [scanAll_resync (scanCase_append_resync hc), scanAll_resync hc,
      List.drop_append_of_le_length (Nat.le_trans (by decide) hlen), ih]

theorem feedBuffer_append (buf a b : List Byte) :
    feedBuffer buf (a ++ b) =
      ((feedBuffer (feedBuffer buf a).1 b).1, (feedBuffer buf a).2 ++ (feedBuffer (feedBuffer buf a).1 b).2) := by
  rw [feedBuffer_eq_scanAll, ← List.append_assoc]
  exact scanAll_append (buf ++ a) b

/-- A session is one FEED of its chunks joined, from every quiescent buffer. -/
theorem feedSession_eq_feedBuffer {buf : List Byte} (h : Quiescent buf) (chunks : List (List Byte)) :
    ((feedSession buf chunks).1, (feedSession buf chunks).2.flatten) = feedBuffer buf chunks.flatten := by
  induction chunks generalizing buf with
  | nil => exact (feedBuffer_nil h).symm
  | cons chunk chunks ih =>
    rw [List.flatten_cons, feedBuffer_append, ← ih (quiescent_feedBuffer buf chunk)]
    rfl

/-! ## Frames (R95, R101) -/

/-- A candidate frame at the head is complete, and `total` is its own length. -/
theorem scanCase_candidateFrame_append {f : List Byte} (hf : CandidateFrame f) (rest : List Byte) :
    scanCase (f ++ rest) = .extract ∧ frameTotal (f ++ rest) = f.length := by
  obtain ⟨hlen, hsync, htotal⟩ := hf
  exact ⟨scanCase_append_extract (scanCase_eq_extract.2 ⟨hlen, hsync, htotal.ge⟩),
    (frameTotal_append hlen).trans htotal.symm⟩

theorem scanAll_candidateFrame_append {f : List Byte} (hf : CandidateFrame f) (rest : List Byte) :
    scanAll (f ++ rest) = ((scanAll rest).1, frameEvent f :: (scanAll rest).2) := by
  obtain ⟨hc, htotal⟩ := scanCase_candidateFrame_append hf rest
  rw [scanAll_extract hc, htotal, List.drop_left, List.take_left]

theorem scanAll_candidateFrame {f : List Byte} (hf : CandidateFrame f) : scanAll f = ([], [frameEvent f]) := by
  rw [← List.append_nil f, scanAll_candidateFrame_append hf, scanAll_of_quiescent quiescent_nil, List.append_nil]

theorem scanAll_flatten {frames : List (List Byte)} (h : ∀ f ∈ frames, CandidateFrame f) :
    scanAll frames.flatten = ([], frames.map frameEvent) := by
  induction frames with
  | nil => exact scanAll_of_quiescent quiescent_nil
  | cons f frames ih =>
    obtain ⟨hf, hframes⟩ := List.forall_mem_cons.1 h
    rw [List.flatten_cons, scanAll_candidateFrame_append hf, ih hframes]
    rfl

/-- A part of a frame from its first byte is short of a header, or has the header of the whole and is short of its total. -/
theorem quiescent_take_of_candidateFrame {f : List Byte} {k : Nat} (hf : CandidateFrame f) (hk : k < f.length) :
    Quiescent (f.take k) := by
  obtain ⟨_, hsync, htotal⟩ := hf
  have hlen : (f.take k).length = k := List.length_take_of_le hk.le
  by_cases hheader : hdrSize ≤ (f.take k).length
  · right
    rw [← syncAtHead_append (t := f.drop k) hheader, ← frameTotal_append (t := f.drop k) hheader, List.take_append_drop, hlen,
      ← htotal]
    exact ⟨hsync, hk⟩
  · exact .inl (Nat.lt_of_not_le hheader)

/-! ## Garbage in front of a frame (R107) -/

/-- No adjacent sync pair, as R107 asks of garbage. -/
def NoSyncPair (g : List Byte) : Prop := ∀ i, ¬ (byteAt g i = sync1 ∧ byteAt g (i + 1) = sync2)

theorem NoSyncPair.tail {b : Byte} {g : List Byte} (h : NoSyncPair (b :: g)) : NoSyncPair g := fun i => h (i + 1)

/-- A byte of garbage with the frame somewhere behind it is no sync pair's beginning: after the last one stands SYNC1. -/
theorem scanCase_garbage {b : Byte} {g f : List Byte} (h : NoSyncPair (b :: g)) (hf : CandidateFrame f) :
    scanCase (b :: g ++ f) = .resync := by
  obtain ⟨hlen, ⟨hsync1, _⟩, _⟩ := hf
  refine scanCase_eq_resync.2 ⟨by rw [List.length_append]; omega, fun hsync => ?_⟩
  cases g with
  | nil => exact absurd (hsync1.symm.trans hsync.2) (by decide)
  | cons c g => exact h 0 hsync

theorem scanAll_garbage {g f : List Byte} (h : NoSyncPair g) (hf : CandidateFrame f) :
    scanAll (g ++ f) = ([], [frameEvent f]) := by
  induction g with
  | nil => exact scanAll_candidateFrame hf
  | cons b g ih => exact (scanAll_resync (scanCase_garbage h hf)).trans (ih h.tail)

theorem execAll_append_eq_next {is js : List Instr} {s u : State} :
    execAll (is ++ js) s = .next u ↔ ∃ t, execAll is s = .next t ∧ execAll js t = .next u := by
  induction is generalizing s with
  | nil => simp [execAll]
  | cons i is ih =>
    simp only [List.cons_append, execAll_cons_eq_next, ih]
    exact ⟨fun ⟨v, hv, t, ht, hu⟩ => ⟨t, ⟨v, hv, ht⟩, hu⟩, fun ⟨t, ⟨v, hv, ht⟩, hu⟩ => ⟨v, hv, t, ht, hu⟩⟩

theorem execAll_resyncs_garbage {g f : List Byte} {s : State} (h : NoSyncPair g) (hf : CandidateFrame f)
    (hbuf : s.buf = g ++ f) :
    execAll (List.replicate g.length .resync) s = .next { s with buf := f } := by
  induction g generalizing s with
  | nil =>
    obtain rfl : s.buf = f := hbuf
    rfl
  | cons b g ih =>
    have hresync : exec .resync s = .next (s.dropHead 1) := whenSelected_of (hbuf ▸ scanCase_garbage h hf)
    have hdrop : (s.dropHead 1).buf = g ++ f := by rw [dropHead_buf, hbuf]; rfl
    exact execAll_cons_eq_next.2 ⟨_, hresync, ih h.tail hdrop⟩

/-- EXTRACT on exactly one frame takes it all. -/
theorem exec_extract_of_candidateFrame {s : State} (h : CandidateFrame s.buf) :
    exec .extract s = .next { s with buf := [], ev := s.ev ++ [frameEvent s.buf] } := by
  obtain ⟨hlen, hsync, htotal⟩ := h
  have hrow : exec .extract s = .next s.extractHead :=
    whenSelected_of (scanCase_eq_extract.2 ⟨hlen, hsync, htotal.ge⟩)
  have hhead : s.extractHead =
      { s with buf := s.buf.drop (frameTotal s.buf), ev := s.ev ++ [frameEvent (s.buf.take (frameTotal s.buf))] } := rfl
  rw [hrow, hhead, ← htotal, List.drop_length, List.take_length]

end Sys2Proof.Machine
end

section
/-! SUPPORT. The statements of 41_sync_assembler.md, settled. -/

namespace Sys2Proof.Proofs

open Machine

/-- Settles O5: the loop that APPEND starts ends in the state that FEED's recursion computes. -/
theorem feedIsAppendThenScans : Obligations.FeedIsAppendThenScans := by
  intro s chunk hidle
  obtain ⟨k, hpos, hle, hrun, hbefore⟩ := exists_append_scans (s := { s with ev := [] }) chunk hidle
  exact ⟨k, _, exec_feed_of_idle chunk hidle, rfl, hpos, hle, hrun, hbefore⟩

/-- Settles O10: below six bytes SCAN stops, and the SCANs of a FEED are counted by `exists_append_scans`. -/
theorem everyFeedTerminates : Obligations.EveryFeedTerminates := by
  refine ⟨fun s => ?_, fun s hshort => ⟨_, exec_scan_of_quiescent (.inl hshort), rfl⟩, fun s chunk hidle => ?_⟩
  · rcases exec_scan_cases s with ⟨_, hscan⟩ | ⟨hc, hscan⟩ | ⟨hc, hscan⟩
    · exact ⟨_, hscan, .inl ⟨rfl, rfl⟩⟩
    · exact ⟨_, hscan, .inr (.inr (length_drop_frameTotal hc))⟩
    · obtain ⟨_, hlen⟩ := length_drop_one hc
      exact ⟨_, hscan, .inr (.inl hlen)⟩
  · obtain ⟨k, _, hle, hrun, _⟩ := exists_append_scans chunk hidle
    exact ⟨k, hle, _, hrun, hidle⟩

/-- Settles O12: FEED's loop stops only at a quiescent buffer, and at once on one. -/
theorem feedLeavesQuiescentBuffer : Obligations.FeedLeavesQuiescentBuffer := by
  intro s hidle
  refine ⟨fun chunk => ⟨_, exec_feed_of_idle chunk hidle, quiescent_feedBuffer s.buf chunk⟩, fun hq => ?_⟩
  rw [exec_feed_of_idle [] hidle, feedBuffer_nil hq]

/-- Settles O14: both halves are `feedBuffer_append`, the second by induction on the chunks. -/
theorem chunkBoundariesDoNotMatter : Obligations.ChunkBoundariesDoNotMatter := by
  constructor
  · intro s a b hidle
    obtain ⟨hbuf, hev⟩ := Prod.ext_iff.1 (feedBuffer_append s.buf a b)
    exact ⟨_, _, _, exec_feed_of_idle a hidle, exec_feed_of_idle b hidle, exec_feed_of_idle (a ++ b) hidle, hbuf, hev⟩
  · exact fun chunks => Prod.ext_iff.1 (feedSession_eq_feedBuffer quiescent_nil chunks)

/-- Settles O16: each frame in turn stands complete at the head. -/
theorem backToBackFramesGiveOneEventEach : Obligations.BackToBackFramesGiveOneEventEach :=
  fun _ _ hidle hbuf hframes => exec_feed_of_empty hidle hbuf (scanAll_flatten hframes)

/-- Settles O17: every byte of garbage is lost by one RESYNC, and what stands behind it is exactly the frame. -/
theorem garbageIsDroppedByteByByte : Obligations.GarbageIsDroppedByteByByte := by
  intro s g f hidle hbuf hf hg
  have happend := exec_append_of_idle (g ++ f) hidle
  have hstream : s.buf ++ (g ++ f) = g ++ f := by rw [hbuf, List.nil_append]
  have hdropped := execAll_cons_eq_next.2 ⟨_, happend, execAll_resyncs_garbage hg hf hstream⟩
  have hextract := exec_extract_of_candidateFrame (s := { s with buf := f, scanning := true }) hf
  exact ⟨hdropped, execAll_append_eq_next.2 ⟨_, hdropped, execAll_cons_eq_next.2 ⟨_, hextract, rfl⟩⟩,
    exec_feed_of_empty hidle hbuf (scanAll_garbage hg hf)⟩

/-- Settles O18: the first part is a quiescent buffer, and the two parts joined are the frame. -/
theorem splitFrameAppearsWithItsLastByte : Obligations.SplitFrameAppearsWithItsLastByte := by
  intro s f k hidle hbuf hf hk
  constructor
  · refine exec_feed_of_scanAll hidle ?_
    rw [hbuf, List.nil_append, scanAll_of_quiescent (quiescent_take_of_candidateFrame hf hk)]
  · refine exec_feed_of_scanAll (s := { s with buf := f.take k }) hidle ?_
    rw [List.take_append_drop, scanAll_candidateFrame hf]

/-- Settles O6: with no FEED running the guard of APPEND lets its write through. -/
theorem appendPutsWholeChunkAtTail : Obligations.AppendPutsWholeChunkAtTail :=
  fun _ chunk hidle => exec_append_of_idle chunk hidle

/-- Settles O7: each clause's condition is the one of its case, with `total` as the model computes it. -/
theorem scanTakesTheCaseOfTheHead : Obligations.ScanTakesTheCaseOfTheHead := by
  intro s total
  have htotal : frameTotal s.buf = total := frameTotal_eq s.buf
  rw [← htotal]
  exact
    ⟨fun hshort => exec_scan_of_quiescent (.inl hshort),
      fun _ h0 h1 hpart => exec_scan_of_quiescent (.inr ⟨⟨h0, h1⟩, hpart⟩),
      fun hlen h0 h1 hall => exec_scan_of_extract (scanCase_eq_extract.2 ⟨hlen, ⟨h0, h1⟩, hall⟩),
      fun hlen hsync => exec_scan_of_resync (scanCase_eq_resync.2 ⟨hlen, hsync⟩)⟩

/-- Settles O8: each row's condition is the one its guard tests. -/
theorem streamRowsHaveTheirEffect : Obligations.StreamRowsHaveTheirEffect := by
  intro s total
  have htotal : frameTotal s.buf = total := frameTotal_eq s.buf
  rw [← htotal]
  exact
    ⟨fun hlen h0 h1 hall => whenSelected_of (scanCase_eq_extract.2 ⟨hlen, ⟨h0, h1⟩, hall⟩),
      fun hlen h0 h1 hpart => whenSelected_of (scanCase_eq_wait.2 ⟨hlen, ⟨h0, h1⟩, hpart⟩),
      fun hlen hsync => whenSelected_of (scanCase_eq_resync.2 ⟨hlen, hsync⟩),
      fun hshort => whenSelected_of (scanCase_eq_scanEnd.2 hshort)⟩

/-- Settles O9: the row of the case at the head is the one that applies. -/
theorem exactlyOneStreamRowApplies : Obligations.ExactlyOneStreamRowApplies := by
  intro s
  have hrow : exec (scanCaseInstr (scanCase s.buf)) s = exec .scan s := exec_scanCaseInstr_of_eq rfl
  refine ⟨scanCaseInstr (scanCase s.buf), mem_streamRows_iff.2 ⟨_, rfl⟩, hrow, ?_, fun j hj hother => ?_⟩
  · rw [hrow]
    rcases exec_scan_cases s with ⟨_, hscan⟩ | ⟨_, hscan⟩ | ⟨_, hscan⟩ <;> exact ⟨_, hscan⟩
  · obtain ⟨c, rfl⟩ := mem_streamRows_iff.1 hj
    exact exec_scanCaseInstr_of_ne fun hc => hother (congrArg scanCaseInstr hc.symm)

end Sys2Proof.Proofs
end

section
/-! SUPPORT. Facts for 42_frame_validator.md: the frame rows on a candidate frame (R110, R113, R114), the two CRC values of a built
frame (R111, R112), its event, and what altering its payload does to them (R116). -/

namespace Sys2Proof.Machine

/-! ## The frame rows (R110, R113, R114) -/

theorem frameEvent_of_crcMatches {f : List Byte} (h : CrcMatches f) : frameEvent f = payloadEvent (framePayload f) := if_pos h

theorem frameEvent_of_not_crcMatches {f : List Byte} (h : ¬ CrcMatches f) : frameEvent f = .signal .crcMismatch := if_neg h

theorem exec_decode (p : List Byte) (s : State) : exec (.decode p) s = .next (s.putEvent (payloadEvent p)) := rfl

theorem exec_validate {f : List Byte} (s : State) (hf : CandidateFrame f) :
    exec (.validate f) s = .next (s.putEvent (frameEvent f)) :=
  whenSelected_of hf

/-- A match hands the payload, and only the payload, to DECODE (R114). -/
theorem exec_validate_of_crcMatches {f : List Byte} (s : State) (hf : CandidateFrame f) (h : CrcMatches f) :
    exec (.validate f) s = exec (.decode (framePayload f)) s := by
  rw [exec_validate s hf, frameEvent_of_crcMatches h, exec_decode]

/-- A mismatch raises CrcMismatch, and the payload is not looked at (R113). -/
theorem exec_validate_of_not_crcMatches {f : List Byte} (s : State) (hf : CandidateFrame f) (h : ¬ CrcMatches f) :
    exec (.validate f) s = .next (s.raise .crcMismatch) := by
  rw [exec_validate s hf, frameEvent_of_not_crcMatches h, State.raise]

theorem exec_crcBad {f : List Byte} (s : State) (hf : CandidateFrame f) (h : ¬ CrcMatches f) :
    exec (.crcBad f) s = .next (s.raise .crcMismatch) :=
  whenSelected_of ⟨hf, h⟩

theorem exec_crcOk {f : List Byte} (s : State) (hf : CandidateFrame f) (h : CrcMatches f) :
    exec (.crcOk f) s = .next (s.putEvent (payloadEvent (framePayload f))) :=
  whenSelected_of ⟨hf, h⟩

/-! ## The CRC of a built frame (R75, R111, R112) -/

theorem frameCrc_mkFrameX (p : List Byte) (k : U16) : frameCrc (mkFrameX p k) = k := high_append_low k

/-- FRAME stores the CRC of the four bytes before the CRC field and of the payload. -/
theorem frameCrc_mkFrame (p : List Byte) : frameCrc (mkFrame p) = crc16 crcSeedValidate (frameHead p ++ p) :=
  frameCrc_mkFrameX p _

/-- The coverage skips the CRC field, whatever stands there. -/
theorem coveredBytes_mkFrameX (p : List Byte) (k : U16) : coveredBytes (mkFrameX p k) = frameHead p ++ p := rfl

/-- What the Validator computes on a frame around `p` is what FRAME stores for `p`. -/
theorem computedCrc_mkFrameX (p : List Byte) (k : U16) : computedCrc (mkFrameX p k) = frameCrc (mkFrame p) := by
  rw [computedCrc, coveredBytes_mkFrameX, frameCrc_mkFrame]

theorem crcMatches_mkFrameX {p : List Byte} {k : U16} : CrcMatches (mkFrameX p k) ↔ frameCrc (mkFrame p) = k := by
  rw [CrcMatches, computedCrc_mkFrameX, frameCrc_mkFrameX]

theorem crcMatches_mkFrame (p : List Byte) : CrcMatches (mkFrame p) :=
  crcMatches_mkFrameX.2 (frameCrc_mkFrame p)

/-! ## The event of a built frame -/

theorem frameEvent_mkFrameX (p : List Byte) (k : U16) :
    frameEvent (mkFrameX p k) = if frameCrc (mkFrame p) = k then payloadEvent p else .signal .crcMismatch := by
  split_ifs with h
  · rw [frameEvent_of_crcMatches (crcMatches_mkFrameX.2 h), framePayload_mkFrameX]
  · exact frameEvent_of_not_crcMatches (mt crcMatches_mkFrameX.1 h)

/-- One built frame fed into an empty buffer is consumed, whether or not it validates (R115). -/
theorem exec_feed_mkFrameX {s : State} {p : List Byte} (k : U16) (hidle : s.scanning = false) (hbuf : s.buf = [])
    (hp : p.length ≤ maxLen) :
    exec (.feed (mkFrameX p k)) s =
      .next { s with ev := [if frameCrc (mkFrame p) = k then payloadEvent p else .signal .crcMismatch] } := by
  rw [exec_feed_of_empty hidle hbuf (scanAll_candidateFrame (candidateFrame_mkFrameX k hp)), frameEvent_mkFrameX]

theorem exec_feed_mkFrameX_of_ne {s : State} {p : List Byte} {k : U16} (hidle : s.scanning = false) (hbuf : s.buf = [])
    (hp : p.length ≤ maxLen) (h : frameCrc (mkFrame p) ≠ k) :
    exec (.feed (mkFrameX p k)) s = .next { s with ev := [.signal .crcMismatch] } := by
  rw [exec_feed_mkFrameX k hidle hbuf hp, if_neg h]

/-! ## An altered payload byte (R116) -/

theorem frameHead_set (p : List Byte) (i : Nat) (b : Byte) : frameHead (p.set i b) = frameHead p := by
  rw [frameHead, frameHead, List.length_set]

/-- Altering byte `i` of the payload is altering byte `6 + i` of the frame, header and CRC field as they were. -/
theorem set_mkFrameX (p : List Byte) (k : U16) (i : Nat) (b : Byte) :
    (mkFrameX p k).set (hdrSize + i) b = mkFrameX (p.set i b) k := by
  have hheader : (frameHead p ++ u16Bytes k).length = hdrSize := rfl
  rw [mkFrameX, mkFrameX, frameHead_set, ← hheader, List.set_append_right _ _ (Nat.le_add_right _ _),
    Nat.add_sub_cancel_left]

/-- One byte altered in its place changes the CRC (R87, consequence (b)). -/
theorem crc16_set_ne (seed : U16) {p : List Byte} {i : Nat} {b : Byte} (hi : i < p.length) (hb : b ≠ byteAt p i) :
    crc16 seed (p.set i b) ≠ crc16 seed p := by
  have hold : p.take i ++ byteAt p i :: p.drop (i + 1) = p := by
    rw [byteAt, List.getD_eq_getElem p 0 hi, List.cons_getElem_drop_succ, List.take_append_drop]
  have hnew : p.set i b = p.take i ++ b :: p.drop (i + 1) := List.set_eq_take_append_cons_drop.trans (if_pos hi)
  have hcrc := crc16_ne_of_byte_ne seed (p.take i) (p.drop (i + 1)) hb
  rwa [hold, ← hnew] at hcrc

/-- The header does not change with the payload byte, so the CRC that FRAME stores does. -/
theorem frameCrc_mkFrame_set_ne {p : List Byte} {i : Nat} {b : Byte} (hi : i < p.length) (hb : b ≠ byteAt p i) :
    frameCrc (mkFrame (p.set i b)) ≠ frameCrc (mkFrame p) := by
  rw [frameCrc_mkFrame, frameCrc_mkFrame, frameHead_set, crc16_append, crc16_append]
  exact crc16_set_ne _ hi hb

end Sys2Proof.Machine
end

section
/-! SUPPORT. The statements of 42_frame_validator.md, settled. -/

namespace Sys2Proof.Proofs

open Machine

/-- Settles O28: FRAME stores exactly what the Validator computes. -/
theorem everyWellBuiltFrameValidates : Obligations.EveryWellBuiltFrameValidates := by
  intro s p hp
  have hframe : CandidateFrame (mkFrame p) := candidateFrame_mkFrame hp
  refine ⟨hframe, crcMatches_mkFrame p, ?_⟩
  rw [exec_validate_of_crcMatches s hframe (crcMatches_mkFrame p), framePayload_mkFrame]

/-- Settles O29: each alteration is a frame built around a payload and a CRC field, and the two CRC values are compared. -/
theorem alteredFrameIsMismatched : Obligations.AlteredFrameIsMismatched := by
  intro s p hidle hbuf hp
  refine ⟨fun i b hi hb => ?_, fun k hk => exec_feed_mkFrameX_of_ne hidle hbuf hp hk.symm, fun q hq => ?_⟩
  · have hlen : (p.set i b).length ≤ maxLen := List.length_set.trans_le hp
    have haltered : (mkFrame p).set (6 + i) b = mkFrameX (p.set i b) (frameCrc (mkFrame p)) := by
      rw [frameCrc_mkFrame]
      exact set_mkFrameX p _ i b
    rw [haltered]
    exact exec_feed_mkFrameX_of_ne hidle hbuf hlen (frameCrc_mkFrame_set_ne hi hb)
  · exact exec_feed_mkFrameX _ hidle hbuf (hq.trans_le hp)

/-- Settles O26: the two sides of the comparison are the model's `computedCrc` and `frameCrc`. -/
theorem validateComparesTheCrc : Obligations.ValidateComparesTheCrc := by
  intro s f hf
  exact
    ⟨fun hmatch => ⟨exec_validate_of_crcMatches s hf hmatch, _, exec_validate s hf⟩,
      fun hmismatch => exec_validate_of_not_crcMatches s hf hmismatch⟩

/-- Settles O27: each row's condition is the one its guard tests. -/
theorem frameRowsHaveTheirEffect : Obligations.FrameRowsHaveTheirEffect := by
  intro s f hf
  exact
    ⟨fun hmismatch => exec_crcBad s hf hmismatch,
      fun hmatch => ⟨exec_crcOk s hf hmatch, exec_crcOk s hf hmatch⟩⟩

end Sys2Proof.Proofs
end

section
/-! SUPPORT. Facts for 43_payload_decoder.md: the event of a payload by its row of R68, the tag and field rows where they are selected,
the record as a function of payload bytes 1 to 75 (R122) and as what HI91(f) encodes (R76), and the flat vector of 30_encoding.md
section 2 cut into bytes. -/

namespace Sys2Proof.Machine

/-! ## The event of a payload (R120) -/

/-- The empty payload's signal is the parameter's decided value (D6). -/
theorem payloadEvent_nil : payloadEvent [] = .signal .unknownFrameType := rfl

theorem payloadEvent_of_hi91 {p : List Byte} (htag : byteAt p 0 = tagHi91) (hlen : hi91MinLen ≤ p.length) :
    payloadEvent p = .record (decodeHi91 p) := by
  rw [payloadEvent, tagCase_eq_hi91.2 ⟨htag, hlen⟩]

theorem payloadEvent_of_hi91Short {p : List Byte} (h : Hi91ShortPayload p) :
    payloadEvent p = .signal .payloadTooShort := by
  rw [payloadEvent, tagCase_eq_hi91Short.2 h]

theorem payloadEvent_of_unknown {p : List Byte} (htag : byteAt p 0 ≠ tagHi91) (hlen : 1 ≤ p.length) :
    payloadEvent p = .signal .unknownFrameType := by
  rw [payloadEvent, tagCase_eq_unknown.2 ⟨htag, hlen⟩]

theorem exec_decode_of_payloadEvent {p : List Byte} {e : Event} (s : State) (h : payloadEvent p = e) :
    exec (.decode p) s = .next (s.putEvent e) := by
  rw [exec_decode, h]

/-- A frame built by FRAME and fed into an empty buffer gives its payload's event (R117, R95). -/
theorem exec_feed_mkFrame {s : State} {p : List Byte} (hidle : s.scanning = false) (hbuf : s.buf = [])
    (hp : p.length ≤ maxLen) : exec (.feed (mkFrame p)) s = .next { s with ev := [payloadEvent p] } :=
  exec_feed_of_empty hidle hbuf <| by
    rw [scanAll_candidateFrame (candidateFrame_mkFrame hp), frameEvent_of_crcMatches (crcMatches_mkFrame p),
      framePayload_mkFrame]

/-! ## The tag rows (R121, R122, R135, R136) -/

theorem exec_empty (s : State) : exec .empty s = .next (s.raise .unknownFrameType) := rfl

theorem exec_hi91 {p : List Byte} (s : State) (h : Hi91Payload p) :
    exec (.hi91 p) s = .next (s.emitRecord (decodeHi91 p)) :=
  whenSelected_of h

theorem exec_hi91Short {p : List Byte} (s : State) (h : Hi91ShortPayload p) :
    exec (.hi91Short p) s = .next (s.raise .payloadTooShort) :=
  whenSelected_of h

theorem exec_unknown {p : List Byte} (s : State) (h : UnknownPayload p) :
    exec (.unknown p) s = .next (s.raise .unknownFrameType) :=
  whenSelected_of h

/-! ## The record is a function of payload bytes 1 to 75 (R122) -/

/-- Two records with the same `sync_time`, `temperature` and 32-bit fields are the same record. -/
theorem record_ext {r t : DecodedRecord} (hsync : r.syncTimeRaw = t.syncTimeRaw) (htemp : r.temperature = t.temperature)
    (hwords : recordWords r = recordWords t) : r = t := by
  cases r
  cases t
  simp_all [recordWords, wordOffsets]

theorem syncTimeRaw_decodeHi91 (p : List Byte) : (decodeHi91 p).syncTimeRaw = le16 p 1 := rfl

theorem temperature_decodeHi91 (p : List Byte) : (decodeHi91 p).temperature = byteAt p 3 := rfl

/-- Every 32-bit field lies within payload offsets 1 to 75. -/
theorem wordOffsets_within : ∀ o ∈ wordOffsets, 1 ≤ o ∧ o + 3 < hi91MinLen := by decide

theorem le32_congr {p q : List Byte} {o : Nat} (h : ∀ k, o ≤ k → k ≤ o + 3 → byteAt q k = byteAt p k) :
    le32 q o = le32 p o := by
  rw [le32, le32, h o (by omega) (by omega), h (o + 1) (by omega) (by omega), h (o + 2) (by omega) (by omega),
    h (o + 3) (by omega) (by omega)]

theorem decodeHi91_congr {p q : List Byte} (h : ∀ k, 1 ≤ k → k < hi91MinLen → byteAt q k = byteAt p k) :
    decodeHi91 q = decodeHi91 p := by
  refine record_ext ?_ (h 3 (by decide) (by decide)) ?_
  · exact congrArg₂ (· ++ ·) (h 2 (by decide) (by decide)) (h 1 (by decide) (by decide))
  · rw [recordWords_decodeHi91, recordWords_decodeHi91]
    refine List.map_congr_left fun o ho => ?_
    obtain ⟨hlow, hhigh⟩ := wordOffsets_within o ho
    rw [le32_congr fun k hok hko => h k (by omega) (by omega)]

/-- Bytes behind the first 76 do not show in the record (R137). -/
theorem decodeHi91_append {p : List Byte} (hp : hi91MinLen ≤ p.length) (x : List Byte) :
    decodeHi91 (p ++ x) = decodeHi91 p :=
  decodeHi91_congr fun _ _ hk => byteAt_append_left (hk.trans_le hp)

/-- A byte of `x` stands behind the bytes of `p`. -/
theorem byteAt_append_right (p x : List Byte) (k : Nat) : byteAt (p ++ x) (p.length + k) = byteAt x k := by
  rw [← byteAt_drop, List.drop_left]

theorem le32_append_right (p x : List Byte) (k : Nat) : le32 (p ++ x) (p.length + k) = le32 x k := by
  simp only [le32, Nat.add_assoc, byteAt_append_right]

/-! ## The record that HI91(f) encodes (R76, R139) -/

/-- The four bytes of a `u32`, read back in the same order, are that `u32`. -/
theorem le32_u32Bytes (v : U32) : le32 (u32Bytes v) 0 = v := by
  have hhigh : v.extractLsb' 24 8 ++ v.extractLsb' 16 8 = v.extractLsb' 16 16 :=
    BitVec.extractLsb'_append_extractLsb'_eq_extractLsb' rfl
  have hmid : v.extractLsb' 16 16 ++ v.extractLsb' 8 8 = v.extractLsb' 8 24 :=
    BitVec.extractLsb'_append_extractLsb'_eq_extractLsb' rfl
  have hall : v.extractLsb' 8 24 ++ v.extractLsb' 0 8 = v.extractLsb' 0 32 :=
    BitVec.extractLsb'_append_extractLsb'_eq_extractLsb' rfl
  calc le32 (u32Bytes v) 0
    _ = v.extractLsb' 24 8 ++ v.extractLsb' 16 8 ++ v.extractLsb' 8 8 ++ v.extractLsb' 0 8 := rfl
    _ = v.extractLsb' 0 32 := by rw [hhigh, hmid, hall]
    _ = v := BitVec.extractLsb'_eq_self

/-- Words written one after another behind `front` are read back at the offsets at which they stand. -/
theorem le32_encodedWords {words : List (U32 × Nat)} {front : List Byte}
    (hoffsets : words.map Prod.snd = List.range' front.length words.length 4) :
    ∀ x ∈ words, le32 (front ++ words.flatMap fun x => u32Bytes x.1) x.2 = x.1 := by
  induction words generalizing front with
  | nil => exact nofun
  | cons y ys ih =>
    obtain ⟨hy, hys⟩ := List.cons.inj hoffsets
    rw [List.flatMap_cons]
    refine List.forall_mem_cons.2 ⟨?_, ?_⟩
    · calc le32 (front ++ (u32Bytes y.1 ++ ys.flatMap fun x => u32Bytes x.1)) y.2
        _ = le32 (u32Bytes y.1 ++ ys.flatMap fun x => u32Bytes x.1) 0 := by
          rw [hy]; exact le32_append_right _ _ 0
        _ = y.1 := le32_u32Bytes y.1
    · rw [← List.append_assoc]
      exact ih (by rw [hys, List.length_append]; rfl)

theorem length_encodedWords (words : List (U32 × Nat)) :
    (words.flatMap fun x => u32Bytes x.1).length = words.length * 4 :=
  List.length_flatMap.trans (by simp [u32Bytes])

/-- The bytes of HI91(f) before its first 32-bit field: the tag, `sync_time` and `temperature`. -/
def hi91Front (f : DecodedRecord) : List Byte := [tagHi91] ++ u16Bytes f.syncTimeRaw ++ [f.temperature]

theorem mkHi91_eq (f : DecodedRecord) :
    mkHi91 f = hi91Front f ++ (recordWords f).flatMap fun x => u32Bytes x.1 := by
  unfold mkHi91
  simp only [hi91Front, recordWords, wordOffsets, List.zip_cons_cons, List.zip_nil_left, List.flatMap_cons,
    List.flatMap_nil, List.append_assoc, List.append_nil]

theorem length_mkHi91 (f : DecodedRecord) : (mkHi91 f).length = hi91MinLen := by
  have hfront : (hi91Front f).length = 4 := rfl
  have hwords : (recordWords f).length = 18 := rfl
  rw [mkHi91_eq, List.length_append, length_encodedWords, hfront, hwords, hi91MinLen]

theorem recordWords_decodeHi91_mkHi91 (f : DecodedRecord) : recordWords (decodeHi91 (mkHi91 f)) = recordWords f := by
  have hread : ∀ x ∈ recordWords f, le32 (mkHi91 f) x.2 = x.1 := mkHi91_eq f ▸ le32_encodedWords rfl
  calc recordWords (decodeHi91 (mkHi91 f))
    _ = wordOffsets.map fun o => (le32 (mkHi91 f) o, o) := recordWords_decodeHi91 _
    _ = (recordWords f).map fun x => (le32 (mkHi91 f) x.2, x.2) := rfl
    _ = (recordWords f).map id := List.map_congr_left fun x hx => by rw [hread x hx, id]
    _ = recordWords f := List.map_id _

theorem decodeHi91_mkHi91 (f : DecodedRecord) : decodeHi91 (mkHi91 f) = f := by
  have hsync : (decodeHi91 (mkHi91 f)).syncTimeRaw = f.syncTimeRaw := by
    rw [syncTimeRaw_decodeHi91, mkHi91_eq]
    exact high_append_low f.syncTimeRaw
  have htemp : (decodeHi91 (mkHi91 f)).temperature = f.temperature := by
    rw [temperature_decodeHi91, mkHi91_eq]
    rfl
  exact record_ext hsync htemp (recordWords_decodeHi91_mkHi91 f)

theorem payloadEvent_mkHi91 (f : DecodedRecord) : payloadEvent (mkHi91 f) = .record f := by
  have htag : byteAt (mkHi91 f) 0 = tagHi91 := by rw [mkHi91_eq]; rfl
  rw [payloadEvent_of_hi91 htag (length_mkHi91 f).ge, decodeHi91_mkHi91]

/-! ## The flat vector of a payload (30_encoding.md section 2) -/

/-- The flat vector's digits to base 256 are the payload's first 76 bytes. -/
theorem flatPayload_eq_ofDigits (p : List Byte) :
    flatPayload p = Nat.ofDigits 256 ((p.take hi91MinLen).map BitVec.toNat) := by
  rw [Nat.ofDigits_eq_foldr, List.foldr_map]
  rfl

/-- Digit `o` of a number whose digits to base 256 are `bytes`. -/
theorem ofNat_ofDigits_div (bytes : List Byte) (o : Nat) :
    BitVec.ofNat 8 (Nat.ofDigits 256 (bytes.map BitVec.toNat) / 256 ^ o) = byteAt bytes o := by
  induction bytes generalizing o with
  | nil => simp [byteAt]
  | cons b bs ih =>
    have hb : b.toNat < 256 := b.isLt
    rw [List.map_cons, Nat.ofDigits_cons]
    cases o with
    | zero =>
      refine BitVec.eq_of_toNat_eq ?_
      rw [BitVec.toNat_ofNat, pow_zero, Nat.div_one]
      exact (Nat.add_mul_mod_self_left _ _ _).trans (Nat.mod_eq_of_lt hb)
    | succ o =>
      rw [Nat.pow_succ', ← Nat.div_div_eq_div_mul, Nat.add_mul_div_left _ _ (by decide)]
      rw [Nat.div_eq_of_lt hb, Nat.zero_add]
      exact ih o

theorem flatSlice_byte {p : List Byte} {o : Nat} (ho : o < hi91MinLen) : flatSlice p (8 * o) 8 = byteAt p o := by
  rw [flatSlice, Nat.pow_mul, flatPayload_eq_ofDigits]
  exact (ofNat_ofDigits_div _ o).trans (byteAt_take ho)

/-- Neighbouring slices make one slice. -/
theorem flatSlice_append (p : List Byte) (lo w v : Nat) :
    flatSlice p (lo + v) w ++ flatSlice p lo v = flatSlice p lo (w + v) := by
  refine BitVec.eq_of_getLsbD_eq fun i hi => ?_
  simp only [flatSlice, BitVec.getLsbD_append, BitVec.getLsbD_ofNat, Nat.testBit_div_two_pow]
  by_cases hlow : i < v
  · simp [hlow, hi]
  · have hhigh : i - v < w := by omega
    have hbit : i - v + (lo + v) = i + lo := by omega
    simp [hlow, hhigh, hi, hbit]

/-- A byte below a slice that begins behind it. -/
theorem flatSlice_append_byte {p : List Byte} {o : Nat} (w : Nat) (ho : o < hi91MinLen) :
    flatSlice p (8 * (o + 1)) w ++ byteAt p o = flatSlice p (8 * o) (w + 8) := by
  rw [← flatSlice_byte ho, Nat.mul_add_one, flatSlice_append]

theorem le16_eq_flatSlice {p : List Byte} {o : Nat} (ho : o + 1 < hi91MinLen) : le16 p o = flatSlice p (8 * o) 16 := by
  rw [le16, ← flatSlice_byte ho, flatSlice_append_byte 8 (by omega)]

theorem le32_eq_flatSlice {p : List Byte} {o : Nat} (ho : o + 3 < hi91MinLen) : le32 p o = flatSlice p (8 * o) 32 := by
  rw [le32, ← flatSlice_byte ho, flatSlice_append_byte 8 (by omega), flatSlice_append_byte 16 (by omega),
    flatSlice_append_byte 24 (by omega)]

/-! ## The field rows (R123 to R134) -/

/-- The value a field row returns, read at the field's payload offset (R66). -/
def fieldValue (p : List Byte) : Hi91Field → FnValue
  | .syncTime => .u16 (fieldSyncTime p)
  | .temperature => .byte (fieldTemperature p)
  | .pressure => .u32 (fieldPressure p)
  | .systemTimeMs => .u32 (fieldSystemTimeMs p)
  | .acc => .triple (fieldAcc p 0) (fieldAcc p 1) (fieldAcc p 2)
  | .gyr => .triple (fieldGyr p 0) (fieldGyr p 1) (fieldGyr p 2)
  | .mag => .triple (fieldMag p 0) (fieldMag p 1) (fieldMag p 2)
  | .roll => .u32 (fieldRoll p)
  | .pitch => .u32 (fieldPitch p)
  | .yaw => .u32 (fieldYaw p)
  | .quat => .quad (fieldQuat p 0) (fieldQuat p 1) (fieldQuat p 2) (fieldQuat p 3)

theorem exec_fieldInstr {p : List Byte} (s : State) (h : Hi91Payload p) (k : Hi91Field) :
    exec (fieldInstr p k) s = .next (s.returns (fieldValue p k)) := by
  cases k <;> exact whenSelected_of h

/-- Three neighbouring 32-bit fields, the first at offset `o`, as slices. -/
theorem triple_eq_flatSlices {p : List Byte} {o : Nat} (ho : o + 11 < hi91MinLen) :
    FnValue.triple (le32 p o) (le32 p (o + 4)) (le32 p (o + 8)) =
      .triple (flatSlice p (8 * o) 32) (flatSlice p (8 * (o + 4)) 32) (flatSlice p (8 * (o + 8)) 32) := by
  rw [le32_eq_flatSlice (by omega), le32_eq_flatSlice (by omega), le32_eq_flatSlice (by omega)]

/-- Four neighbouring 32-bit fields, the first at offset `o`, as slices. -/
theorem quad_eq_flatSlices {p : List Byte} {o : Nat} (ho : o + 15 < hi91MinLen) :
    FnValue.quad (le32 p o) (le32 p (o + 4)) (le32 p (o + 8)) (le32 p (o + 12)) =
      .quad (flatSlice p (8 * o) 32) (flatSlice p (8 * (o + 4)) 32) (flatSlice p (8 * (o + 8)) 32)
        (flatSlice p (8 * (o + 12)) 32) := by
  rw [le32_eq_flatSlice (by omega), le32_eq_flatSlice (by omega), le32_eq_flatSlice (by omega),
    le32_eq_flatSlice (by omega)]

end Sys2Proof.Machine
end

section
/-! SUPPORT. The statements of 43_payload_decoder.md, settled. -/

namespace Sys2Proof.Proofs

open Machine

/-- Settles O35: the frame gives the event of its payload, and the decoder reads each field where HI91(f) wrote it. -/
theorem feedOfEncodedRecordReturnsIt : Obligations.FeedOfEncodedRecordReturnsIt := by
  intro s f hidle hbuf
  have hlen : (mkHi91 f).length ≤ maxLen := (length_mkHi91 f).trans_le (by decide)
  rw [exec_feed_mkFrame hidle hbuf hlen, payloadEvent_mkHi91]

/-- Settles O32: each field is a read of whole bytes, and whole bytes of the flat vector are its digits. -/
theorem fieldRowsAreSlicesOfThePayload : Obligations.FieldRowsAreSlicesOfThePayload := by
  intro s p hp
  have row {k : Hi91Field} {v : FnValue} (hv : fieldValue p k = v) :
      exec (fieldInstr p k) s = .next { s with ret := some v } := by
    rw [exec_fieldInstr s hp, hv, State.returns]
  exact
    ⟨row (k := .syncTime) (congrArg FnValue.u16 (le16_eq_flatSlice (o := 1) (by decide))),
      row (k := .temperature) (congrArg FnValue.byte (flatSlice_byte (o := 3) (by decide)).symm),
      row (k := .pressure) (congrArg FnValue.u32 (le32_eq_flatSlice (o := 4) (by decide))),
      row (k := .systemTimeMs) (congrArg FnValue.u32 (le32_eq_flatSlice (o := 8) (by decide))),
      row (k := .acc) (triple_eq_flatSlices (o := 12) (by decide)),
      row (k := .gyr) (triple_eq_flatSlices (o := 24) (by decide)),
      row (k := .mag) (triple_eq_flatSlices (o := 36) (by decide)),
      row (k := .roll) (congrArg FnValue.u32 (le32_eq_flatSlice (o := 48) (by decide))),
      row (k := .pitch) (congrArg FnValue.u32 (le32_eq_flatSlice (o := 52) (by decide))),
      row (k := .yaw) (congrArg FnValue.u32 (le32_eq_flatSlice (o := 56) (by decide))),
      row (k := .quat) (quad_eq_flatSlices (o := 60) (by decide))⟩

/-- Settles O34: the long payload has the event of its first 76 bytes, and a byte of `x` is a byte of the payload altered. -/
theorem longHi91PayloadIsDecodedAsSeventySix : Obligations.LongHi91PayloadIsDecodedAsSeventySix := by
  intro s p x hidle hbuf hlen htag hmax
  have hlong : (p ++ x).length ≤ maxLen := List.length_append.trans_le hmax
  have htagLong : byteAt (p ++ x) 0 = tagHi91 := (byteAt_append_left (by omega)).trans htag
  have hminLong : hi91MinLen ≤ (p ++ x).length := by rw [List.length_append, hlen]; exact Nat.le_add_right _ _
  constructor
  · rw [exec_feed_mkFrame hidle hbuf hlong, payloadEvent_of_hi91 htagLong hminLong, decodeHi91_append hlen.ge]
  · intro k b hk hb
    have hin : p.length + k < (p ++ x).length := by rw [List.length_append]; omega
    have hchanged : b ≠ byteAt (p ++ x) (p.length + k) := by rwa [byteAt_append_right]
    obtain ⟨haltered, _⟩ := alteredFrameIsMismatched s (p ++ x) hidle hbuf hlong
    have hoffset : 82 + k = 6 + (p.length + k) := by omega
    rw [hoffset]
    exact haltered _ b hin hchanged

/-- Settles O30: one clause for each row of R68. -/
theorem decodeDispatchesOnLengthAndTag : Obligations.DecodeDispatchesOnLengthAndTag := by
  intro s p
  exact
    ⟨exec_decode_of_payloadEvent s payloadEvent_nil,
      fun hlen htag => exec_decode_of_payloadEvent s (payloadEvent_of_unknown htag hlen),
      fun hlen hshort htag =>
        exec_decode_of_payloadEvent s (payloadEvent_of_hi91Short ⟨htag, hlen, Nat.lt_succ_of_le hshort⟩),
      fun hlen htag => exec_decode_of_payloadEvent s (payloadEvent_of_hi91 htag hlen)⟩

/-- Settles O31: each clause's condition is the row's guard. -/
theorem tagRowsHaveTheirEffect : Obligations.TagRowsHaveTheirEffect := by
  intro s p
  exact
    ⟨exec_empty s,
      fun hlen hmax htag => exec_unknown s ⟨htag, hlen, hmax⟩,
      fun hlen hshort htag => exec_hi91Short s ⟨htag, hlen, Nat.lt_succ_of_le hshort⟩,
      fun hlen hmax htag => exec_hi91 s ⟨htag, hlen, hmax⟩⟩

/-- Settles O33: the record is `decodeHi91`, which reads payload bytes 1 to 75 only. -/
theorem recordHoldsTheFields : Obligations.RecordHoldsTheFields := by
  intro s p hp
  refine ⟨decodeHi91 p, exec_hi91 s hp, rfl, rfl, rfl, rfl, rfl, rfl, rfl, rfl, rfl, rfl, rfl, rfl, rfl, rfl, rfl, rfl, rfl,
    rfl, rfl, rfl, fun q hq hagree => ?_⟩
  rw [exec_hi91 s hq, exec_hi91 s hp, decodeHi91_congr hagree]

end Sys2Proof.Proofs
end

section
/-! SUPPORT. Facts for 44_serial_datapath.md: the registers a row writes (R146 to R152), the test for the last byte and the verdict of
FINISH (R151 to R153), the byte-serial rows, a chunk's bytes over the state (R157), and a step by the request served (R140). -/

namespace Sys2Proof.Machine

/-! ## Bytes of a register and of the capture store (R144) -/

theorem setLowByte_low (v : U16) (b : Byte) : (setLowByte v b).extractLsb' 0 8 = b :=
  BitVec.extractLsb'_append_eq_right

theorem setLowByte_high (v : U16) (b : Byte) : (setLowByte v b).extractLsb' 8 8 = v.extractLsb' 8 8 :=
  BitVec.extractLsb'_append_eq_left

theorem setHighByte_low (v : U16) (b : Byte) : (setHighByte v b).extractLsb' 0 8 = v.extractLsb' 0 8 :=
  BitVec.extractLsb'_append_eq_right

theorem setHighByte_high (v : U16) (b : Byte) : (setHighByte v b).extractLsb' 8 8 = b :=
  BitVec.extractLsb'_append_eq_left

theorem crcAfterSync_eq : crcAfterSync = crc16 0 [sync1, sync2] := by decide +kernel

/-- The capture store after payload byte `cnt` (R152): offsets 76 and above are not kept. -/
def captureByte (cap : Capture) (cnt : U16) (b : Byte) : Capture :=
  if cnt.toNat < 76 then cap.setIfInBounds cnt.toNat b else cap

theorem getElem_captureByte (cap : Capture) (cnt : U16) (b : Byte) (k : Fin 76) :
    (captureByte cap cnt b)[k] = if k.val = cnt.toNat then b else cap[k] := by
  have hk : k.val < 76 := k.isLt
  unfold captureByte
  split_ifs with hin
  · exact (Vector.getElem_setIfInBounds hk).trans (if_congr eq_comm rfl rfl)
  · exact (if_neg (by omega)).symm

/-! ## The last byte of a frame (R151 to R153) -/

/-- `crc_rx` and `cnt` as CRC_HI writes them (R151). -/
def SerialRegs.takeCrcHi (r : SerialRegs) (b : Byte) : SerialRegs :=
  { r with crcRx := setHighByte r.crcRx b, cnt := 0 }

/-- The capture store, `crc_acc` and `cnt` as PAYLOAD writes them (R152). -/
def SerialRegs.takePayload (r : SerialRegs) (b : Byte) : SerialRegs :=
  { r with cap := captureByte r.cap r.cnt b, crcAcc := crcByteStep r.crcAcc b, cnt := r.cnt + 1 }

/-- The test that CRC_HI and PAYLOAD end with (R151, R152): FINISH where all of the payload has been taken. -/
def SerialRegs.finishIfComplete (r : SerialRegs) : SerialRegs × Option Event :=
  if r.cnt = r.lenR then ({ r with st := .hunt1 }, some (finishEvent r.crcAcc r.crcRx r.lenR r.cap))
  else ({ r with st := .payload }, none)

theorem serialPayload_eq (r : SerialRegs) (b : Byte) : serialPayload r b = (r.takePayload b).finishIfComplete := rfl

theorem finishIfComplete_of_eq {r : SerialRegs} (h : r.cnt = r.lenR) :
    r.finishIfComplete = ({ r with st := .hunt1 }, some (finishEvent r.crcAcc r.crcRx r.lenR r.cap)) := if_pos h

theorem finishIfComplete_of_ne {r : SerialRegs} (h : r.cnt ≠ r.lenR) :
    r.finishIfComplete = ({ r with st := .payload }, none) := if_neg h

/-- CRC_HI tests the length itself, which is the test of PAYLOAD at a count of 0. -/
theorem serialCrcHi_eq (r : SerialRegs) (b : Byte) : serialCrcHi r b = (r.takeCrcHi b).finishIfComplete := by
  by_cases hlen : r.lenR = 0
  · rw [finishIfComplete_of_eq (r := r.takeCrcHi b) hlen.symm]
    simp only [serialCrcHi, SerialRegs.takeCrcHi, hlen, if_true]
  · rw [finishIfComplete_of_ne (r := r.takeCrcHi b) (Ne.symm hlen)]
    exact if_neg hlen

/-! ## The verdict (R153), test by test -/

theorem finishEvent_of_ne {acc rx : U16} (len : U16) (cap : Capture) (h : acc ≠ rx) :
    finishEvent acc rx len cap = .signal .crcMismatch := if_pos h

theorem finishEvent_of_zero (rx : U16) (cap : Capture) : finishEvent rx rx 0 cap = .signal .unknownFrameType := by
  rw [finishEvent, if_neg (not_not.2 rfl), if_pos rfl, Config.emptyPayloadClass]

theorem finishEvent_of_otherTag (rx : U16) {len : U16} {cap : Capture} (hlen : len ≠ 0) (htag : cap[0] ≠ tagHi91) :
    finishEvent rx rx len cap = .signal .unknownFrameType := by
  rw [finishEvent, if_neg (not_not.2 rfl), if_neg hlen, if_pos htag]

theorem finishEvent_of_short (rx : U16) {len : U16} {cap : Capture} (hlen : len ≠ 0) (htag : cap[0] = tagHi91)
    (hshort : len.toNat < hi91MinLen) : finishEvent rx rx len cap = .signal .payloadTooShort := by
  rw [finishEvent, if_neg (not_not.2 rfl), if_neg hlen, if_neg (not_not.2 htag), if_pos hshort]

theorem finishEvent_of_hi91 (rx : U16) {len : U16} {cap : Capture} (htag : cap[0] = tagHi91)
    (hlong : hi91MinLen ≤ len.toNat) : finishEvent rx rx len cap = .record (decodeHi91 cap.toList) := by
  have hlen : len ≠ 0 := by rintro rfl; exact absurd hlong (by decide)
  rw [finishEvent, if_neg (not_not.2 rfl), if_neg hlen, if_neg (not_not.2 htag), if_neg (Nat.not_lt.2 hlong)]

theorem byteAt_toList (cap : Capture) (k : Fin 76) : byteAt cap.toList k.val = cap[k] := by
  simp [byteAt]

/-- FINISH on a capture of the payload gives the event of the payload (R120): it reads no capture byte that the payload did not
write (R159). -/
theorem finishEvent_eq_payloadEvent (rx : U16) {len : U16} {cap : Capture} {p : List Byte} (hlen : len.toNat = p.length)
    (hcap : ∀ k : Fin 76, k.val < p.length → cap[k] = byteAt p k.val) : finishEvent rx rx len cap = payloadEvent p := by
  by_cases hempty : p = []
  · subst hempty
    obtain rfl : len = 0 := BitVec.eq_of_toNat_eq hlen
    rw [finishEvent_of_zero, payloadEvent_nil]
  have hpos : 1 ≤ p.length := List.length_pos_iff.2 hempty
  have hne : len ≠ 0 := by rintro rfl; exact absurd hpos (by rw [← hlen]; decide)
  have hfirst : cap[0] = byteAt p 0 := hcap 0 hpos
  by_cases htag : byteAt p 0 = tagHi91
  · by_cases hshort : p.length < hi91MinLen
    · rw [finishEvent_of_short rx hne (hfirst.trans htag) (hlen.trans_lt hshort), payloadEvent_of_hi91Short ⟨htag, hpos, hshort⟩]
    · have hlong : hi91MinLen ≤ p.length := Nat.le_of_not_lt hshort
      rw [finishEvent_of_hi91 rx (hfirst.trans htag) (hlong.trans_eq hlen.symm), payloadEvent_of_hi91 htag hlong,
        decodeHi91_congr fun k _ hk => (byteAt_toList cap ⟨k, hk⟩).trans (hcap ⟨k, hk⟩ (hk.trans_le hlong))]
  · rw [finishEvent_of_otherTag rx hne (hfirst.trans_ne htag), payloadEvent_of_unknown htag hpos]

/-! ## The byte-serial rows -/

theorem exec_byte (b : Byte) (s : State) : exec (.byte b) s = .next (s.latch (serialByte s.regs b)) := rfl

theorem exec_finish (acc rx len : U16) (cap : Capture) (s : State) :
    exec (.finish acc rx len cap) s =
      .next (s.latch ({ s.regs with st := .hunt1 }, some (finishEvent acc rx len cap))) := rfl

theorem exec_feedSerial (chunk : List Byte) (s : State) :
    exec (.feedSerial chunk) s = .next (State.acceptBytes chunk { s with serialEv := [] }) := rfl

/-- The row of the state that the machine is in does what BYTE does (R145). -/
theorem exec_stateInstr_of_eq {st : SerialSt} {s : State} (b : Byte) (h : s.regs.st = st) :
    exec (stateInstr b st) s = exec (.byte b) s := by
  rw [exec_byte, serialByte, h]
  cases st <;> exact whenSelected_of h

theorem exec_byteHunt1 {s : State} (b : Byte) (h : s.regs.st = .hunt1) :
    exec (.byteHunt1 b) s = .next (s.latch (serialHunt1 s.regs b)) := whenSelected_of h

theorem exec_byteHunt2 {s : State} (b : Byte) (h : s.regs.st = .hunt2) :
    exec (.byteHunt2 b) s = .next (s.latch (serialHunt2 s.regs b)) := whenSelected_of h

theorem exec_byteCrcHi {s : State} (b : Byte) (h : s.regs.st = .crcHi) :
    exec (.byteCrcHi b) s = .next (s.latch (s.regs.takeCrcHi b).finishIfComplete) :=
  (whenSelected_of h).trans (by rw [serialCrcHi_eq])

theorem exec_bytePayload {s : State} (b : Byte) (h : s.regs.st = .payload) :
    exec (.bytePayload b) s = .next (s.latch (s.regs.takePayload b).finishIfComplete) := whenSelected_of h

/-- On a complete frame the test answers what FINISH answers on the registers tested. -/
theorem latch_finishIfComplete_of_eq (s : State) {r : SerialRegs} (h : r.cnt = r.lenR) :
    .next (s.latch r.finishIfComplete) = exec (.finish r.crcAcc r.crcRx r.lenR r.cap) { s with regs := r } := by
  rw [finishIfComplete_of_eq h]
  rfl

theorem latch_finishIfComplete_of_ne (s : State) {r : SerialRegs} (h : r.cnt ≠ r.lenR) :
    s.latch r.finishIfComplete = { s with regs := { r with st := .payload }, ports := Ports.quiet } := by
  rw [finishIfComplete_of_ne h]
  rfl

theorem acceptBytes_append (x y : List Byte) (s : State) :
    State.acceptBytes (x ++ y) s = State.acceptBytes y (State.acceptBytes x s) := by
  induction x generalizing s with
  | nil => rfl
  | cons b x ih => exact ih _

theorem acceptBytes_regs (chunk : List Byte) (s : State) :
    (State.acceptBytes chunk s).regs = (serialFeed s.regs chunk).1 := by
  rw [acceptBytes_spec]

theorem acceptBytes_serialEv (chunk : List Byte) (s : State) :
    (State.acceptBytes chunk s).serialEv = s.serialEv ++ (serialFeed s.regs chunk).2 := by
  rw [acceptBytes_spec]

/-- A chunk changes registers, outputs and event list only (R157). -/
theorem acceptBytes_frame (chunk : List Byte) (s : State) :
    State.acceptBytes chunk { s with serialEv := [] } =
      { s with
        regs := (State.acceptBytes chunk { s with serialEv := [] }).regs
        ports := (State.acceptBytes chunk { s with serialEv := [] }).ports
        serialEv := (State.acceptBytes chunk { s with serialEv := [] }).serialEv } := by
  rw [acceptBytes_regs, acceptBytes_serialEv]
  exact acceptBytes_spec chunk { s with serialEv := [] }

/-- The outputs after a chunk are those of its last byte (R142). -/
theorem acceptBytes_concat_ports (chunk : List Byte) (b : Byte) (s : State) :
    (State.acceptBytes (chunk ++ [b]) s).ports = Ports.ofEvent (serialByte (serialFeed s.regs chunk).1 b).2 := by
  rw [acceptBytes_append, ← acceptBytes_regs]
  rfl

/-! ## A step, by the request served -/

theorem step_of_decode_ok {s : State} {c : Code} {i : Instr} (hfetch : fetch s = some c) (hdecode : decode c = .ok i) :
    step s = exec i s.advance := by
  simp only [step, hfetch, hdecode]

theorem step_of_decode_error {s : State} {c : Code} {e : DecodeError} (hfetch : fetch s = some c)
    (hdecode : decode c = .error e) : step s = .refused (.undecodable e) := by
  simp only [step, hfetch, hdecode]

theorem step_of_fetch_none {s : State} (hfetch : fetch s = none) : step s = .next s.advance.idle := by
  simp only [step, hfetch]

end Sys2Proof.Machine
end

section
/-! SUPPORT. The refinement of 44_serial_datapath.md (R161): what of a buffer can still begin a frame, `alpha` state by state (R160), and
the agreement of the two levels for one byte, then for chunks and sessions. -/

namespace Sys2Proof.Machine

/-! ## The beginning of a frame in a buffer (R160) -/

/-- `b` can begin a frame with `rest` behind it: the test of `frameBeginning`. -/
abbrev Begins (b : Byte) (rest : List Byte) : Prop := b = sync1 ∧ (rest = [] ∨ byteAt rest 0 = sync2)

theorem frameBeginning_of_begins {b : Byte} {rest : List Byte} (h : Begins b rest) :
    frameBeginning (b :: rest) = b :: rest := if_pos h

theorem frameBeginning_of_not_begins {b : Byte} {rest : List Byte} (h : ¬ Begins b rest) :
    frameBeginning (b :: rest) = frameBeginning rest := if_neg h

theorem begins_of_syncAtHead {b : Byte} {rest : List Byte} (h : SyncAtHead (b :: rest)) : Begins b rest := ⟨h.1, .inr h.2⟩

/-- A byte that cannot begin a frame still cannot when more bytes follow. -/
theorem not_begins_append {b : Byte} {rest : List Byte} (h : ¬ Begins b rest) (more : List Byte) :
    ¬ Begins b (rest ++ more) := by
  rintro ⟨hb, hmore⟩
  cases rest with
  | nil => exact h ⟨hb, .inl rfl⟩
  | cons c rest => exact h ⟨hb, .inr (hmore.resolve_left nofun)⟩

theorem frameBeginning_of_syncAtHead {f : List Byte} (h : SyncAtHead f) : frameBeginning f = f := by
  cases f with
  | nil => exact absurd h.1 (by decide)
  | cons b rest => exact frameBeginning_of_begins (begins_of_syncAtHead h)

theorem length_frameBeginning_le (buf : List Byte) : (frameBeginning buf).length ≤ buf.length := by
  induction buf with
  | nil => exact le_rfl
  | cons b rest ih =>
    rw [frameBeginning]
    split_ifs
    · exact le_rfl
    · exact ih.trans (Nat.le_succ _)

/-- What is left can begin a frame: nothing, SYNC1 alone, or the sync pair and what follows. -/
theorem frameBeginning_shape (buf : List Byte) :
    frameBeginning buf = [] ∨ frameBeginning buf = [sync1] ∨ SyncAtHead (frameBeginning buf) := by
  induction buf with
  | nil => exact .inl rfl
  | cons b rest ih =>
    rw [frameBeginning]
    split_ifs with h
    · obtain ⟨rfl, rfl | hsync2⟩ := h
      · exact .inr (.inl rfl)
      · exact .inr (.inr ⟨rfl, hsync2⟩)
    · exact ih

theorem frameBeginning_frameBeginning (buf : List Byte) : frameBeginning (frameBeginning buf) = frameBeginning buf := by
  rcases frameBeginning_shape buf with h | h | h
  · rw [h]; rfl
  · rw [h]; exact frameBeginning_of_begins ⟨rfl, .inl rfl⟩
  · exact frameBeginning_of_syncAtHead h

/-- What FEED's loop gives as far as later bytes can tell: the bytes left that can still begin a frame, and the events. -/
def visible (run : List Byte × List Event) : List Byte × List Event := (frameBeginning run.1, run.2)

/-- FEED's loop drops a byte that cannot begin a frame without an event, now or when six bytes are there (R162). -/
theorem visible_scanAll_cons {b : Byte} {x : List Byte} (h : ¬ Begins b x) :
    visible (scanAll (b :: x)) = visible (scanAll x) := by
  by_cases hlen : hdrSize ≤ (b :: x).length
  · have hlost : scanCase (b :: x) = .resync := scanCase_eq_resync.2 ⟨hlen, mt begins_of_syncAtHead h⟩
    rw [scanAll_resync hlost]
    rfl
  · have hshort : (b :: x).length < hdrSize := Nat.lt_of_not_le hlen
    rw [scanAll_of_quiescent (.inl hshort), scanAll_of_quiescent (.inl ((Nat.le_succ _).trans_lt hshort)), visible, visible,
      frameBeginning_of_not_begins h]

/-- The bytes in front of the beginning of a frame do not show, whatever comes in behind. -/
theorem visible_scanAll_append (buf more : List Byte) :
    visible (scanAll (buf ++ more)) = visible (scanAll (frameBeginning buf ++ more)) := by
  induction buf with
  | nil => rfl
  | cons b rest ih =>
    by_cases h : Begins b rest
    · rw [frameBeginning_of_begins h]
    · rw [frameBeginning_of_not_begins h, ← ih]
      exact visible_scanAll_cons (not_begins_append h more)

/-! ## Reads of a frame that grows at its tail -/

/-- A running CRC over `x` is one over `x` and the next byte after that byte's BYTESTEP. -/
theorem crcByteStep_of_crc16 {acc : U16} {x : List Byte} (h : acc = crc16 0 x) (b : Byte) :
    crcByteStep acc b = crc16 0 (x ++ [b]) := by
  rw [crc16_append, ← h, crc16_cons, crc16_nil]

theorem framePayload_append {f : List Byte} (h : hdrSize ≤ f.length) (x : List Byte) :
    framePayload (f ++ x) = framePayload f ++ x := List.drop_append_of_le_length h

theorem le16_append {f : List Byte} {o : Nat} (h : o + 1 < f.length) (x : List Byte) : le16 (f ++ x) o = le16 f o := by
  rw [le16, le16, byteAt_append_left h, byteAt_append_left (by omega)]

/-- The CRC runs over the payload byte by byte (R85). -/
theorem computedCrc_concat {f : List Byte} (h : hdrSize ≤ f.length) (b : Byte) :
    computedCrc (f ++ [b]) = crcByteStep (computedCrc f) b := by
  have hcovered : coveredBytes (f ++ [b]) = coveredBytes f ++ [b] := by
    rw [coveredBytes, coveredBytes, List.take_append_of_le_length (Nat.le_trans (by decide) h),
      List.drop_append_of_le_length h, List.append_assoc]
  rw [computedCrc, hcovered]
  exact (crcByteStep_of_crc16 rfl b).symm

/-! ## `alpha` (R160), state by state -/

theorem alpha_of_short {buf : List Byte} {r : SerialRegs} (h : buf.length < hdrSize) :
    Alpha buf r ↔ AlphaShort (frameBeginning buf) r := by
  rw [Alpha, if_pos h]

/-- `alpha` of a quiescent buffer is `alpha` of the beginning of a frame in it. -/
theorem alpha_frameBeginning {buf : List Byte} {r : SerialRegs} (hq : Quiescent buf) :
    Alpha (frameBeginning buf) r ↔ Alpha buf r := by
  rcases hq with hshort | ⟨hsync, _⟩
  · rw [alpha_of_short hshort, alpha_of_short ((length_frameBeginning_le buf).trans_lt hshort),
      frameBeginning_frameBeginning]
  · rw [frameBeginning_of_syncAtHead hsync]

/-- The registers that hold a frame from its header on, of which some or all of the payload has been taken. -/
structure HoldsFrame (f : List Byte) (r : SerialRegs) : Prop where
  lenR : r.lenR = le16 f lenOff
  crcRx : r.crcRx = frameCrc f
  crcAcc : r.crcAcc = computedCrc f
  cnt : r.cnt.toNat = (framePayload f).length
  cap : ∀ k : Fin 76, k.val < (framePayload f).length → r.cap[k] = byteAt (framePayload f) k.val

/-- `alpha` in PAYLOAD. -/
theorem alpha_payload {f : List Byte} {r : SerialRegs} (hlen : hdrSize ≤ f.length) :
    Alpha f r ↔ r.st = .payload ∧ HoldsFrame f r := by
  rw [Alpha, if_neg (Nat.not_lt.2 hlen)]
  have hpayload : (framePayload f).length = f.length - 6 := List.length_drop
  constructor
  · rintro ⟨hst, hlenR, hcrcRx, hcnt, hcrcAcc, hcap⟩
    exact ⟨hst, hlenR, hcrcRx, hcrcAcc, hcnt.trans hpayload.symm, fun k hk =>
      (hcap k (hk.trans_eq hpayload)).trans (byteAt_framePayload f k).symm⟩
  · rintro ⟨hst, hlenR, hcrcRx, hcrcAcc, hcnt, hcap⟩
    exact ⟨hst, hlenR, hcrcRx, hcnt.trans hpayload, hcrcAcc, fun k hk =>
      (hcap k (hk.trans_eq hpayload.symm)).trans (byteAt_framePayload f k)⟩

theorem alpha_hunt1 {r : SerialRegs} : Alpha [] r ↔ r.st = .hunt1 := Iff.rfl

theorem alpha_hunt2 {r : SerialRegs} : Alpha [sync1] r ↔ r.st = .hunt2 := Iff.rfl

theorem alpha_lenLo {r : SerialRegs} : Alpha [sync1, sync2] r ↔ r.st = .lenLo ∧ r.crcAcc = crcAfterSync := Iff.rfl

theorem alpha_lenHi {lo : Byte} {r : SerialRegs} :
    Alpha [sync1, sync2, lo] r ↔
      r.st = .lenHi ∧ r.lenR.extractLsb' 0 8 = lo ∧ r.crcAcc = crc16 0 [sync1, sync2, lo] := Iff.rfl

theorem alpha_crcLo {lo hi : Byte} {r : SerialRegs} :
    Alpha [sync1, sync2, lo, hi] r ↔
      r.st = .crcLo ∧ r.lenR = hi ++ lo ∧ r.crcAcc = crc16 0 [sync1, sync2, lo, hi] := Iff.rfl

theorem alpha_crcHi {lo hi c : Byte} {r : SerialRegs} :
    Alpha [sync1, sync2, lo, hi, c] r ↔
      r.st = .crcHi ∧ r.lenR = hi ++ lo ∧ r.crcAcc = crc16 0 [sync1, sync2, lo, hi] ∧ r.crcRx.extractLsb' 0 8 = c := Iff.rfl

/-! ## One byte at both levels (R161) -/

/-- What is left of a quiescent buffer without the bytes that cannot begin a frame, by the state that awaits the next byte. -/
inductive PartialFrame : List Byte → Prop
  | hunt1 : PartialFrame []
  | hunt2 : PartialFrame [sync1]
  | lenLo : PartialFrame [sync1, sync2]
  | lenHi (lo : Byte) : PartialFrame [sync1, sync2, lo]
  | crcLo (lo hi : Byte) : PartialFrame [sync1, sync2, lo, hi]
  | crcHi (lo hi c : Byte) : PartialFrame [sync1, sync2, lo, hi, c]
  | payload {f : List Byte} (header : hdrSize ≤ f.length) (sync : SyncAtHead f) (part : f.length < frameTotal f) :
      PartialFrame f

theorem partialFrame_of_syncAtHead {f : List Byte} (hsync : SyncAtHead f) (hq : Quiescent f) : PartialFrame f := by
  by_cases hheader : hdrSize ≤ f.length
  · rcases hq with hshort | ⟨_, hpart⟩
    · omega
    · exact .payload hheader hsync hpart
  · match f, hsync with
    | [], ⟨h1, _⟩ => exact absurd h1 (by decide)
    | [_], ⟨_, (h2 : 0 = sync2)⟩ => exact absurd h2 (by decide)
    | [b, c], ⟨(h1 : b = sync1), (h2 : c = sync2)⟩ => exact h1 ▸ h2 ▸ .lenLo
    | [b, c, lo], ⟨(h1 : b = sync1), (h2 : c = sync2)⟩ => exact h1 ▸ h2 ▸ .lenHi lo
    | [b, c, lo, hi], ⟨(h1 : b = sync1), (h2 : c = sync2)⟩ => exact h1 ▸ h2 ▸ .crcLo lo hi
    | [b, c, lo, hi, d], ⟨(h1 : b = sync1), (h2 : c = sync2)⟩ => exact h1 ▸ h2 ▸ .crcHi lo hi d
    | _ :: _ :: _ :: _ :: _ :: _ :: _, _ => exact absurd (by simp [hdrSize]) hheader

theorem partialFrame_frameBeginning {buf : List Byte} (hq : Quiescent buf) : PartialFrame (frameBeginning buf) := by
  rcases frameBeginning_shape buf with h | h | hsync
  · exact h ▸ .hunt1
  · exact h ▸ .hunt2
  · refine partialFrame_of_syncAtHead hsync ?_
    rcases hq with hshort | ⟨hsync', hpart⟩
    · exact .inl ((length_frameBeginning_le buf).trans_lt hshort)
    · rw [frameBeginning_of_syncAtHead hsync']
      exact .inr ⟨hsync', hpart⟩

/-- The two levels agree: the same events, and `alpha` of the buffer left in the registers left. -/
structure Agrees (run : List Byte × List Event) (regs : SerialRegs) (ev : List Event) : Prop where
  events : ev = run.2
  alpha : Alpha run.1 regs

/-- A byte that leaves fewer than six bytes gives no event. -/
theorem agrees_of_short {buf : List Byte} {o : SerialRegs × Option Event} (hshort : buf.length < hdrSize) (hnone : o.2 = none)
    (halpha : Alpha buf o.1) : Agrees (scanAll buf) o.1 o.2.toList := by
  rw [scanAll_of_quiescent (.inl hshort), hnone]
  exact ⟨rfl, halpha⟩

/-- A byte looked at for SYNC1 alone (R146, R147). -/
theorem alpha_singleton (r : SerialRegs) (b : Byte) : Alpha [b] { r with st := if b = sync1 then .hunt2 else .hunt1 } := by
  by_cases hb : b = sync1
  · subst hb
    exact alpha_hunt2.2 rfl
  · have hdropped : frameBeginning [b] = [] := frameBeginning_of_not_begins fun h => hb h.1
    rw [alpha_of_short (buf := [b]) (show 1 < 6 by decide), hdropped, if_neg hb]
    rfl

theorem agrees_hunt2 (r : SerialRegs) (b : Byte) :
    Agrees (scanAll [sync1, b]) (serialHunt2 r b).1 (serialHunt2 r b).2.toList := by
  by_cases hb : b = sync2
  · subst hb
    exact agrees_of_short (o := serialHunt2 r sync2) (by decide) rfl (alpha_lenLo.2 ⟨rfl, rfl⟩)
  · have hrow : serialHunt2 r b = ({ r with st := if b = sync1 then .hunt2 else .hunt1 }, none) := if_neg hb
    have hdropped : frameBeginning [sync1, b] = frameBeginning [b] :=
      frameBeginning_of_not_begins fun h => h.2.elim nofun hb
    refine agrees_of_short (show 2 < 6 by decide) (by rw [hrow]) ?_
    rw [hrow, alpha_of_short (buf := [sync1, b]) (show 2 < 6 by decide), hdropped,
      ← alpha_of_short (buf := [b]) (show 1 < 6 by decide)]
    exact alpha_singleton r b

/-- The registers that hold a candidate frame have its event for their verdict (R85, R110, R120). -/
theorem HoldsFrame.finishEvent_eq {f : List Byte} {r : SerialRegs} (h : HoldsFrame f r) (hf : CandidateFrame f) :
    finishEvent r.crcAcc r.crcRx r.lenR r.cap = frameEvent f := by
  have hlen : r.lenR.toNat = (framePayload f).length := by rw [h.lenR, length_framePayload hf, frameLength]
  by_cases hcrc : CrcMatches f
  · have hequal : r.crcAcc = r.crcRx := h.crcAcc.trans (hcrc.trans h.crcRx.symm)
    rw [hequal, finishEvent_eq_payloadEvent _ hlen h.cap, frameEvent_of_crcMatches hcrc]
  · have hdiffer : r.crcAcc ≠ r.crcRx := fun hequal => hcrc (h.crcAcc.symm.trans (hequal.trans h.crcRx))
    rw [finishEvent_of_ne _ _ hdiffer, frameEvent_of_not_crcMatches hcrc]

/-- The test for the last byte (R151, R152) is the length test of SCAN: `cnt = len_r` is `len(buf) >= total`. -/
theorem HoldsFrame.agrees {f : List Byte} {r : SerialRegs} (h : HoldsFrame f r) (hheader : hdrSize ≤ f.length)
    (hsync : SyncAtHead f) (htotal : f.length ≤ frameTotal f) :
    Agrees (scanAll f) r.finishIfComplete.1 r.finishIfComplete.2.toList := by
  have hcnt : r.cnt.toNat + hdrSize = f.length := by
    rw [h.cnt, framePayload, List.length_drop, Nat.sub_add_cancel hheader]
  have hlenR : r.lenR.toNat + hdrSize = frameTotal f := by rw [h.lenR, frameTotal, frameLength, Nat.add_comm]
  by_cases hlast : r.cnt = r.lenR
  · have hf : CandidateFrame f := ⟨hheader, hsync, by rw [← hcnt, ← hlenR, hlast]⟩
    rw [finishIfComplete_of_eq hlast, scanAll_candidateFrame hf, h.finishEvent_eq hf]
    exact ⟨rfl, alpha_hunt1.2 rfl⟩
  · have hpart : f.length < frameTotal f := htotal.lt_of_ne fun heq => hlast (BitVec.eq_of_toNat_eq (by omega))
    rw [finishIfComplete_of_ne hlast, scanAll_of_quiescent (.inr ⟨hsync, hpart⟩)]
    exact ⟨rfl, (alpha_payload hheader).2 ⟨rfl, h.lenR, h.crcRx, h.crcAcc, h.cnt, h.cap⟩⟩

theorem holdsFrame_takeCrcHi {lo hi c : Byte} {r : SerialRegs} (hlenR : r.lenR = hi ++ lo)
    (hcrcAcc : r.crcAcc = crc16 0 [sync1, sync2, lo, hi]) (hcrcRx : r.crcRx.extractLsb' 0 8 = c) (b : Byte) :
    HoldsFrame [sync1, sync2, lo, hi, c, b] (r.takeCrcHi b) where
  lenR := hlenR
  crcRx := congrArg (b ++ ·) hcrcRx
  crcAcc := hcrcAcc
  cnt := rfl
  cap := fun _ hk => absurd hk (Nat.not_lt_zero _)

theorem HoldsFrame.takePayload {f : List Byte} {r : SerialRegs} (h : HoldsFrame f r) (hheader : hdrSize ≤ f.length)
    (hpart : f.length < frameTotal f) (b : Byte) : HoldsFrame (f ++ [b]) (r.takePayload b) := by
  have hpayload : framePayload (f ++ [b]) = framePayload f ++ [b] := framePayload_append hheader [b]
  have hlength : (framePayload (f ++ [b])).length = (framePayload f).length + 1 := by
    rw [hpayload, List.length_append, List.length_singleton]
  refine ⟨?_, ?_, ?_, ?_, fun k hk => ?_⟩
  · exact h.lenR.trans (le16_append ((show 3 < hdrSize by decide).trans_le hheader) [b]).symm
  · exact h.crcRx.trans (le16_append ((show 5 < hdrSize by decide).trans_le hheader) [b]).symm
  · rw [computedCrc_concat hheader, ← h.crcAcc]
    rfl
  · have hbelow : (framePayload f).length < frameLength f := by
      rw [framePayload, List.length_drop]
      exact Nat.sub_lt_left_of_lt_add hheader hpart
    have hbound : r.cnt.toNat + 1 < 2 ^ 16 := by
      rw [h.cnt]
      exact Nat.succ_lt_succ (hbelow.trans_le (frameLength_le f))
    rw [hlength, ← h.cnt]
    exact BitVec.toNat_add_of_lt hbound
  · rw [hlength] at hk
    refine (getElem_captureByte r.cap r.cnt b k).trans ?_
    rw [hpayload, h.cnt]
    split_ifs with hlast
    · rw [hlast]
      exact (byteAt_append_right (framePayload f) [b] 0).symm
    · have hin : k.val < (framePayload f).length := by omega
      rw [h.cap k hin, byteAt_append_left hin]

/-- One more byte behind the beginning of a frame: the row of the state that awaits it, against FEED's loop. -/
theorem agrees_serialByte_of_partialFrame {f : List Byte} {r : SerialRegs} (hf : PartialFrame f) (ha : Alpha f r)
    (b : Byte) : Agrees (scanAll (f ++ [b])) (serialByte r b).1 (serialByte r b).2.toList := by
  cases hf with
  | hunt1 =>
    simp only [serialByte, alpha_hunt1.1 ha]
    exact agrees_of_short (o := serialHunt1 r b) (show 1 < 6 by decide) rfl (alpha_singleton r b)
  | hunt2 =>
    simp only [serialByte, alpha_hunt2.1 ha]
    exact agrees_hunt2 r b
  | lenLo =>
    obtain ⟨hst, hcrcAcc⟩ := alpha_lenLo.1 ha
    simp only [serialByte, hst]
    refine agrees_of_short (o := serialLenLo r b) (show 3 < 6 by decide) rfl
      (alpha_lenHi.2 ⟨rfl, setLowByte_low r.lenR b, ?_⟩)
    exact crcByteStep_of_crc16 (hcrcAcc.trans crcAfterSync_eq) b
  | lenHi lo =>
    obtain ⟨hst, hlenR, hcrcAcc⟩ := alpha_lenHi.1 ha
    simp only [serialByte, hst]
    exact agrees_of_short (o := serialLenHi r b) (show 4 < 6 by decide) rfl
      (alpha_crcLo.2 ⟨rfl, congrArg (b ++ ·) hlenR, crcByteStep_of_crc16 hcrcAcc b⟩)
  | crcLo lo hi =>
    obtain ⟨hst, hlenR, hcrcAcc⟩ := alpha_crcLo.1 ha
    simp only [serialByte, hst]
    exact agrees_of_short (o := serialCrcLo r b) (show 5 < 6 by decide) rfl
      (alpha_crcHi.2 ⟨rfl, hlenR, hcrcAcc, setLowByte_low r.crcRx b⟩)
  | crcHi lo hi c =>
    obtain ⟨hst, hlenR, hcrcAcc, hcrcRx⟩ := alpha_crcHi.1 ha
    simp only [serialByte, hst, serialCrcHi_eq]
    exact (holdsFrame_takeCrcHi hlenR hcrcAcc hcrcRx b).agrees le_rfl ⟨rfl, rfl⟩ (hdrSize_le_frameTotal _)
  | payload hheader hsync hpart =>
    obtain ⟨hst, hframe⟩ := (alpha_payload hheader).1 ha
    simp only [serialByte, hst, serialPayload_eq]
    refine (hframe.takePayload hheader hpart b).agrees ?_ ((syncAtHead_append hheader).2 hsync) ?_
    · exact hheader.trans (by simp)
    · rw [frameTotal_append hheader, List.length_append]
      exact hpart

/-- A byte at both levels, from any quiescent buffer. -/
theorem agrees_serialByte {buf : List Byte} {r : SerialRegs} (hq : Quiescent buf) (ha : Alpha buf r) (b : Byte) :
    Agrees (feedBuffer buf [b]) (serialByte r b).1 (serialByte r b).2.toList := by
  obtain ⟨hev, halpha⟩ :=
    agrees_serialByte_of_partialFrame (partialFrame_frameBeginning hq) ((alpha_frameBeginning hq).2 ha) b
  obtain ⟨hbegin, hevents⟩ := Prod.ext_iff.1 (visible_scanAll_append buf [b])
  refine ⟨hev.trans hevents.symm, ?_⟩
  have hleft : frameBeginning (feedBuffer buf [b]).1 = frameBeginning (feedBuffer (frameBeginning buf) [b]).1 := hbegin
  rw [← alpha_frameBeginning (quiescent_feedBuffer buf [b]), hleft]
  exact (alpha_frameBeginning (quiescent_feedBuffer (frameBeginning buf) [b])).2 halpha

/-! ## Chunks and sessions at both levels -/

theorem agrees_serialFeed {buf : List Byte} {r : SerialRegs} (hq : Quiescent buf) (ha : Alpha buf r) (chunk : List Byte) :
    Agrees (feedBuffer buf chunk) (serialFeed r chunk).1 (serialFeed r chunk).2 := by
  induction chunk generalizing buf r with
  | nil =>
    rw [feedBuffer_nil hq]
    exact ⟨rfl, ha⟩
  | cons b bs ih =>
    obtain ⟨hev, halpha⟩ := agrees_serialByte hq ha b
    obtain ⟨hevs, halphas⟩ := ih (quiescent_feedBuffer buf [b]) halpha
    have hjoin : feedBuffer buf (b :: bs) = _ := feedBuffer_append buf [b] bs
    rw [hjoin]
    exact ⟨congrArg₂ (· ++ ·) hev hevs, halphas⟩

theorem serialSession_events {buf : List Byte} {r : SerialRegs} (hq : Quiescent buf) (ha : Alpha buf r)
    (chunks : List (List Byte)) : (serialSession r chunks).2 = (feedSession buf chunks).2 := by
  induction chunks generalizing buf r with
  | nil => rfl
  | cons chunk chunks ih =>
    obtain ⟨hev, halpha⟩ := agrees_serialFeed hq ha chunk
    exact congrArg₂ List.cons hev (ih (quiescent_feedBuffer buf chunk) halpha)

/-- `alpha` determines `st`, whatever the dead registers hold (R159). -/
theorem st_eq_of_alpha {buf : List Byte} {r r' : SerialRegs} (hq : Quiescent buf) (ha : Alpha buf r) (ha' : Alpha buf r') :
    r.st = r'.st := by
  rw [← alpha_frameBeginning hq] at ha ha'
  have hf : PartialFrame (frameBeginning buf) := partialFrame_frameBeginning hq
  generalize frameBeginning buf = f at ha ha' hf
  cases hf with
  | hunt1 | hunt2 => exact Eq.trans ha (Eq.symm ha')
  | lenLo | lenHi | crcLo | crcHi => exact ha.1.trans ha'.1.symm
  | payload hheader => exact ((alpha_payload hheader).1 ha).1.trans ((alpha_payload hheader).1 ha').1.symm

/-- The event of a byte does not depend on the dead registers either (R159). -/
theorem event_eq_of_alpha {buf : List Byte} {r r' : SerialRegs} (hq : Quiescent buf) (ha : Alpha buf r) (ha' : Alpha buf r')
    (b : Byte) : (serialByte r b).2 = (serialByte r' b).2 := by
  have hlist : (serialByte r b).2.toList = (serialByte r' b).2.toList :=
    (agrees_serialByte hq ha b).events.trans (agrees_serialByte hq ha' b).events.symm
  rw [← Option.head?_toList (o := (serialByte r b).2), hlist, Option.head?_toList]

end Sys2Proof.Machine
end

section
/-! SUPPORT. The statements of 44_serial_datapath.md, settled. -/

namespace Sys2Proof.Proofs

open Machine

/-- Settles O47: the levels agree byte by byte (`agrees_serialByte`), and `alpha` of the empty buffer is HUNT1 alone. -/
theorem serialRefinesBufferLevel : Obligations.SerialRefinesBufferLevel := by
  constructor
  · intro s chunk hidle hq ha
    obtain ⟨hev, halpha⟩ := agrees_serialFeed hq ha chunk
    refine ⟨_, _, exec_feed_of_idle chunk hidle, exec_feedSerial chunk s, ?_, ?_⟩
    · rw [acceptBytes_serialEv]
      exact hev
    · rw [acceptBytes_regs]
      exact halpha
  · exact fun r chunks hst => serialSession_events quiescent_nil (alpha_hunt1.2 hst) chunks

/-- Settles O41: what PAYLOAD writes is `takePayload`, and `finishIfComplete` decides what follows. -/
theorem payloadStateCapturesAndCounts : Obligations.PayloadStateCapturesAndCounts := by
  intro s b hst
  refine ⟨captureByte s.regs.cap s.regs.cnt b, getElem_captureByte s.regs.cap s.regs.cnt b, fun hlast => ?_, fun hmore => ?_⟩
  · exact ⟨⟨_, exec_bytePayload b hst⟩,
      (exec_bytePayload b hst).trans (latch_finishIfComplete_of_eq s (r := s.regs.takePayload b) hlast)⟩
  · rw [exec_bytePayload b hst, latch_finishIfComplete_of_ne s (r := s.regs.takePayload b) hmore, ← hst]
    rfl

/-- Settles O44: the chunk's own list of bytes is the recursion, and the outputs of a byte show its event. -/
theorem serialFeedIsBytesInOrder : Obligations.SerialFeedIsBytesInOrder := by
  refine ⟨fun s => exec_feedSerial [] s, fun s chunk b => ⟨_, _, exec_feedSerial chunk s, exec_byte b _, ?_, ?_⟩⟩
  · rw [exec_feedSerial, acceptBytes_append, latch_ports, event_ofEvent]
    rfl
  · exact acceptBytes_frame chunk s

/-- Settles O46: both runs agree with the buffer level from the empty buffer (R161), which knows no register. -/
theorem serialRegistersAreWrittenBeforeRead : Obligations.SerialRegistersAreWrittenBeforeRead := by
  intro s s' chunk hst hst'
  have ha : Alpha [] s.regs := alpha_hunt1.2 hst
  have ha' : Alpha [] s'.regs := alpha_hunt1.2 hst'
  obtain ⟨hev, halpha⟩ := agrees_serialFeed quiescent_nil ha chunk
  obtain ⟨hev', halpha'⟩ := agrees_serialFeed quiescent_nil ha' chunk
  refine ⟨_, _, exec_feedSerial chunk s, exec_feedSerial chunk s', ?_, ?_, fun hne => ?_⟩
  · rw [acceptBytes_serialEv, acceptBytes_serialEv]
    exact hev.trans hev'.symm
  · rw [acceptBytes_regs, acceptBytes_regs]
    exact st_eq_of_alpha (quiescent_feedBuffer [] chunk) halpha halpha'
  · obtain ⟨before, last, rfl⟩ : ∃ before last, chunk = before ++ [last] :=
      ⟨chunk.dropLast, chunk.getLast hne, (List.dropLast_append_getLast hne).symm⟩
    rw [acceptBytes_concat_ports, acceptBytes_concat_ports]
    exact congrArg Ports.ofEvent (event_eq_of_alpha (quiescent_feedBuffer [] before)
      (agrees_serialFeed quiescent_nil ha before).alpha (agrees_serialFeed quiescent_nil ha' before).alpha last)

/-- Settles O48: a quiescent buffer is what FEED of its bytes leaves of the empty buffer, without an event. -/
theorem alphaIsReachedByItsBytes : Obligations.AlphaIsReachedByItsBytes := by
  intro r buf hst hq
  obtain ⟨hev, halpha⟩ := agrees_serialFeed quiescent_nil (alpha_hunt1.2 hst) buf
  have hkept : feedBuffer [] buf = (buf, []) := scanAll_of_quiescent hq
  rw [hkept] at hev halpha
  exact ⟨hev, halpha⟩

/-- Settles O37: BYTE is the row of `st` (`exec_stateInstr_of_eq`), and BYTE itself has no condition. -/
theorem byteDispatchesOnState : Obligations.ByteDispatchesOnState := by
  intro s b
  refine ⟨⟨_, exec_byte b s⟩, ?_⟩
  have hrow := (exec_stateInstr_of_eq b (rfl : s.regs.st = s.regs.st)).symm
  cases hst : s.regs.st <;> rw [hst] at hrow <;> exact hrow

/-- Settles O38: one clause for each byte that matters, and for the others. -/
theorem huntStatesFindTheSyncPair : Obligations.HuntStatesFindTheSyncPair := by
  intro s b
  refine ⟨fun hst hb => ?_, fun hst hb => ?_, fun hst hb => ?_, fun hst hb => ?_, fun hst hb2 hb1 => ?_⟩
  · rw [exec_byteHunt1 b hst, serialHunt1, if_pos (show b = sync1 from hb)]
    rfl
  · rw [exec_byteHunt1 b hst, serialHunt1, if_neg (show b ≠ sync1 from hb), ← hst]
    rfl
  · rw [exec_byteHunt2 b hst, serialHunt2, if_pos (show b = sync2 from hb), crcAfterSync_eq]
    rfl
  · rw [exec_byteHunt2 b hst, serialHunt2, if_neg (show b ≠ sync2 by rw [hb]; decide), if_pos (show b = sync1 from hb), ← hst]
    rfl
  · rw [exec_byteHunt2 b hst, serialHunt2, if_neg (show b ≠ sync2 from hb2), if_neg (show b ≠ sync1 from hb1)]
    rfl

/-- Settles O39: the half of a register that is written, and the half that is kept. -/
theorem headerStatesLoadTheirBytes : Obligations.HeaderStatesLoadTheirBytes := by
  intro s b
  exact
    ⟨fun hst => ⟨setLowByte s.regs.lenR b, setLowByte_low _ b, setLowByte_high _ b, whenSelected_of hst⟩,
      fun hst => ⟨setHighByte s.regs.lenR b, setHighByte_high _ b, setHighByte_low _ b, whenSelected_of hst⟩,
      fun hst => ⟨setLowByte s.regs.crcRx b, setLowByte_low _ b, setLowByte_high _ b, whenSelected_of hst⟩⟩

/-- Settles O40: what CRC_HI writes is `takeCrcHi`, and `finishIfComplete` decides what follows. -/
theorem crcHiFinishesEmptyFrames : Obligations.CrcHiFinishesEmptyFrames := by
  intro s b hst
  refine ⟨setHighByte s.regs.crcRx b, setHighByte_high _ b, setHighByte_low _ b, fun hempty => ?_, fun hlen => ?_⟩
  · have hfinish := latch_finishIfComplete_of_eq s (r := s.regs.takeCrcHi b) hempty.symm
    have hzero : (s.regs.takeCrcHi b).lenR = 0 := hempty
    rw [hzero] at hfinish
    exact ⟨⟨_, exec_byteCrcHi b hst⟩, (exec_byteCrcHi b hst).trans hfinish⟩
  · rw [exec_byteCrcHi b hst, latch_finishIfComplete_of_ne s (r := s.regs.takeCrcHi b) hlen.symm]
    rfl

/-- Settles O42: an event shows one pulse, and the verdict is the event of the first test that applies. -/
theorem finishGivesOneVerdict : Obligations.FinishGivesOneVerdict := by
  intro s acc rx len cap
  refine ⟨Ports.ofEvent (some (finishEvent acc rx len cap)), exec_finish acc rx len cap s, pulseCount_ofEvent _,
    fun hdiffer => ?_, ?_, ?_, ?_, ?_⟩
  · rw [finishEvent_of_ne len cap hdiffer]
    rfl
  · rintro rfl rfl
    rw [finishEvent_of_zero]
    rfl
  · rintro rfl hlen htag
    rw [finishEvent_of_otherTag acc hlen htag]
    rfl
  · rintro rfl hlen htag hshort
    rw [finishEvent_of_short acc hlen htag hshort]
    rfl
  · rintro rfl htag hlong
    rw [finishEvent_of_hi91 acc htag hlong]
    rfl

/-- Settles O43: the seven rows share the guard `whenSelected`. -/
theorem stateRowsNeedTheirState : Obligations.StateRowsNeedTheirState :=
  fun _ _ => ⟨whenSelected_of_not, whenSelected_of_not, whenSelected_of_not, whenSelected_of_not, whenSelected_of_not,
    whenSelected_of_not, whenSelected_of_not⟩

/-- Settles O45: the other registers are the free values of the draw. -/
theorem serialResetReturnsToHunt : Obligations.SerialResetReturnsToHunt :=
  fun s => ⟨resetRegs s.freeCtr, rfl, rfl⟩

/-- Settles O56: the three answers of a step, by what `fetch` and `decode` give. -/
theorem stepRunsTheDecodedOperation : Obligations.StepRunsTheDecodedOperation :=
  fun _ => ⟨fun _ _ => step_of_decode_ok, fun _ _ => step_of_decode_error, step_of_fetch_none⟩

/-- Settles O57: the code of an edge is that of RESET.serial with `rst`, of BYTE with `in_valid` alone, else none. -/
theorem clockEdgeServesItsInputs : Obligations.ClockEdgeServesItsInputs := by
  intro s rest v d
  exact
    ⟨step_of_decode_ok (c := ⟨.resetSerial, []⟩) rfl (decode_of_decodes .resetSerial),
      step_of_decode_ok (c := ⟨.byte, [d]⟩) rfl (decode_of_decodes (.byte d)),
      step_of_fetch_none rfl⟩

end Sys2Proof.Proofs
end

section
/-! SUPPORT. Facts for 60_exceptions.md: the condition of the bytes at the head of `buf` (R174) by the case SCAN takes, and the operations
a host may ask for (R194), which answer wherever no FEED is running. -/

namespace Sys2Proof.Machine

/-! ## The frame at the head of the buffer (R95) -/

theorem length_framePayload_take {buf : List Byte} (h : scanCase buf = .extract) :
    (framePayload (buf.take (frameTotal buf))).length = frameLength buf := by
  obtain ⟨_, _, hall⟩ := scanCase_eq_extract.1 h
  rw [framePayload, List.length_drop, List.length_take_of_le hall, frameTotal, Nat.add_sub_cancel_left]

theorem byteAt_framePayload_take {buf : List Byte} (h : frameLength buf ≠ 0) :
    byteAt (framePayload (buf.take (frameTotal buf))) 0 = byteAt buf hdrSize := by
  have hinside : hdrSize < frameTotal buf := Nat.lt_add_of_pos_right (Nat.pos_of_ne_zero h)
  rw [byteAt_framePayload, Nat.add_zero, byteAt_take hinside]

/-! ## The condition at the head, by the case SCAN takes (R174) -/

/-- The condition an event reports (R171). -/
def Event.condition : Event → Condition
  | .record _ => .none
  | .signal .crcMismatch => .crcMismatch
  | .signal .unknownFrameType => .unknownFrameType
  | .signal .payloadTooShort => .payloadTooShort

theorem headCondition_of_scanEnd {buf : List Byte} (h : scanCase buf = .scanEnd) : headCondition buf = .none :=
  if_pos (scanCase_eq_scanEnd.1 h)

theorem headCondition_of_resync {buf : List Byte} (h : scanCase buf = .resync) : headCondition buf = .syncLoss := by
  obtain ⟨hlen, hsync⟩ := scanCase_eq_resync.1 h
  rw [headCondition, if_neg hlen.not_gt, if_pos hsync]

theorem headCondition_of_wait {buf : List Byte} (h : scanCase buf = .wait) : headCondition buf = .truncatedFrame := by
  obtain ⟨hlen, hsync, hpart⟩ := scanCase_eq_wait.1 h
  rw [headCondition, if_neg hlen.not_gt, if_neg (not_not_intro hsync), if_pos hpart]

/-- The tests of R174 behind the CRC's, on a payload: they are those of the tag map, with the empty payload in the class D6 gives it. -/
theorem condition_payloadEvent (p : List Byte) :
    Event.condition (payloadEvent p) =
      if p.length = 0 ∨ byteAt p 0 ≠ tagHi91 then .unknownFrameType
      else if p.length < hi91MinLen then .payloadTooShort else .none := by
  by_cases hempty : p.length = 0
  · rw [if_pos (.inl hempty), List.eq_nil_of_length_eq_zero hempty, payloadEvent_nil, Event.condition]
  have hpos : 1 ≤ p.length := Nat.one_le_iff_ne_zero.2 hempty
  by_cases htag : byteAt p 0 = tagHi91
  · rw [if_neg (not_or_intro hempty (not_not_intro htag))]
    by_cases hshort : p.length < hi91MinLen
    · rw [if_pos hshort, payloadEvent_of_hi91Short ⟨htag, hpos, hshort⟩, Event.condition]
    · rw [if_neg hshort, payloadEvent_of_hi91 htag (Nat.le_of_not_lt hshort), Event.condition]
  · rw [if_pos (.inr htag), payloadEvent_of_unknown htag hpos, Event.condition]

/-- At a complete frame the first condition that applies is the one its event reports. -/
theorem headCondition_of_extract {buf : List Byte} (h : scanCase buf = .extract) :
    headCondition buf = Event.condition (frameEvent (buf.take (frameTotal buf))) := by
  obtain ⟨hlen, hsync, hall⟩ := scanCase_eq_extract.1 h
  rw [headCondition, if_neg hlen.not_gt, if_neg (not_not_intro hsync), if_neg hall.not_gt]
  by_cases hcrc : CrcMatches (buf.take (frameTotal buf))
  · have htests : frameLength buf = 0 ∨ byteAt (framePayload (buf.take (frameTotal buf))) 0 ≠ tagHi91 ↔
        frameLength buf = 0 ∨ byteAt buf hdrSize ≠ tagHi91 :=
      or_congr_right' fun hpayload => by rw [byteAt_framePayload_take hpayload]
    rw [if_neg (not_not_intro hcrc), frameEvent_of_crcMatches hcrc, condition_payloadEvent, length_framePayload_take h]
    simp only [htests]
  · rw [if_pos hcrc, frameEvent_of_not_crcMatches hcrc, Event.condition]

/-- A frame that gives a record gives the record of its payload (R114, R122). -/
theorem eq_decodeHi91_of_frameEvent {f : List Byte} {r : DecodedRecord} (h : frameEvent f = .record r) :
    r = decodeHi91 (framePayload f) := by
  by_cases hcrc : CrcMatches f
  · rw [frameEvent_of_crcMatches hcrc, payloadEvent] at h
    cases htag : tagCase (framePayload f) with
    | hi91 => rw [htag] at h; exact (Event.record.inj h).symm
    | empty | hi91Short | unknown => rw [htag] at h; cases h
  · rw [frameEvent_of_not_crcMatches hcrc] at h
    cases h

/-! ## The host's operations (R140, R194) -/

/-- The operations a host may ask for: RESET and FEED at either level, and BYTE. -/
inductive HostOp : Instr → Prop
  | reset : HostOp .reset
  | feed (chunk : List Byte) : HostOp (.feed chunk)
  | resetSerial : HostOp .resetSerial
  | feedSerial (chunk : List Byte) : HostOp (.feedSerial chunk)
  | byte (b : Byte) : HostOp (.byte b)

/-- A request the host may make is an idle edge or the code of one of its operations. -/
theorem requestCode_of_fromHost {r : Request} (h : Request.FromHost r) (buf : List Byte) :
    requestCode buf r = none ∨ ∃ c i, requestCode buf r = some c ∧ Decodes c i ∧ HostOp i := by
  cases r with
  | edge rst inValid inData =>
    cases rst with
    | true => exact .inr ⟨_, _, rfl, .resetSerial, .resetSerial⟩
    | false =>
      cases inValid with
      | true => exact .inr ⟨_, _, rfl, .byte inData, .byte inData⟩
      | false => exact .inl rfl
  | op c =>
    obtain ⟨sel, bytes⟩ := c
    cases sel with
    | reset =>
      obtain rfl : bytes = [] := h
      exact .inr ⟨_, _, rfl, .reset, .reset⟩
    | resetSerial =>
      obtain rfl : bytes = [] := h
      exact .inr ⟨_, _, rfl, .resetSerial, .resetSerial⟩
    | feed => exact .inr ⟨_, _, rfl, .feed bytes, .feed bytes⟩
    | feedSerial => exact .inr ⟨_, _, rfl, .feedSerial bytes, .feedSerial bytes⟩
    | byte =>
      obtain ⟨b, rfl⟩ := List.length_eq_one_iff.1 h
      exact .inr ⟨_, _, rfl, .byte b, .byte b⟩
    | append | scan | stream | crc16 | byteStep | round | validate | verdict | decode | tag | field | state | finish => cases h

/-- With no FEED running a host operation answers, leaves none running, and adds no request. -/
theorem exec_of_hostOp {i : Instr} {s : State} (hi : HostOp i) (hidle : s.scanning = false) :
    ∃ t, exec i s = .next t ∧ t.scanning = false ∧ t.pending = s.pending := by
  cases hi with
  | reset => exact ⟨_, whenQuiescent_of hidle, hidle, rfl⟩
  | feed chunk => exact ⟨_, exec_feed_of_idle chunk hidle, hidle, rfl⟩
  | resetSerial => exact ⟨_, rfl, hidle, rfl⟩
  | byte b => exact ⟨_, exec_byte b s, hidle, rfl⟩
  | feedSerial chunk =>
    refine ⟨_, exec_feedSerial chunk s, ?_, ?_⟩
    · rw [acceptBytes_frame]
      exact hidle
    · rw [acceptBytes_frame]

/-! ## The host contract (R195, R196) -/

/-- The contract goes on holding where a step leaves no FEED running and takes the request served off the list. -/
theorem HostContract.of_served {s t : State} (hs : HostContract s) (hscanning : t.scanning = false)
    (hpending : t.pending = s.pending.tail) : HostContract t := by
  obtain ⟨_, hrequests⟩ := hs
  exact ⟨hscanning, fun r hr => hrequests r (List.mem_of_mem_tail (hpending ▸ hr))⟩

theorem fetch_of_hostContract {s : State} (hs : HostContract s) :
    fetch s = none ∨ ∃ c i, fetch s = some c ∧ Decodes c i ∧ HostOp i := by
  obtain ⟨_, hrequests⟩ := hs
  unfold fetch
  cases hp : s.pending with
  | nil => exact .inl rfl
  | cons r rest => exact requestCode_of_fromHost (hrequests r (hp ▸ List.mem_cons_self)) s.buf

/-- Under the contract a step answers, and the contract goes on holding. -/
theorem step_of_hostContract {s : State} (hs : HostContract s) : ∃ t, step s = .next t ∧ HostContract t := by
  have ⟨hidle, _⟩ := hs
  rcases fetch_of_hostContract hs with hfetch | ⟨c, i, hfetch, hdecodes, hhost⟩
  · exact ⟨_, step_of_fetch_none hfetch, hs.of_served hidle rfl⟩
  · obtain ⟨t, hexec, hscanning, hpending⟩ := exec_of_hostOp hhost (s := s.advance) hidle
    exact ⟨t, (step_of_decode_ok hfetch (decode_of_decodes hdecodes)).trans hexec, hs.of_served hscanning hpending⟩

/-- From reset, whatever the host asks for, invariant and contract both hold. -/
theorem inv_and_hostContract_reset {requests : List Request} (h : ∀ r ∈ requests, Request.FromHost r) :
    Inv { State.reset with pending := requests } ∧ HostContract { State.reset with pending := requests } :=
  ⟨inv_reset.of_sameBufferPart ⟨rfl, rfl, rfl, rfl⟩ inv_reset.regsInv inv_reset.pulses, rfl, h⟩

end Sys2Proof.Machine
end

section
/-! SUPPORT. The statements of 60_exceptions.md, settled. -/

namespace Sys2Proof.Proofs

open Machine

/-- Settles O11: a SCAN that extracts reports the event of the frame, whose condition is the one at the head; the others report none. -/
theorem scanReportsTheFirstCondition : Obligations.ScanReportsTheFirstCondition := by
  intro s t h
  cases hc : scanCase s.buf with
  | scanEnd =>
    rw [exec_scan_of_quiescent (quiescent_iff.2 (.inl hc))] at h
    cases h
    rw [headCondition_of_scanEnd hc]
    exact ⟨fun _ => ⟨rfl, rfl⟩, fun hlen => absurd (scanCase_eq_scanEnd.1 hc) hlen.not_gt⟩
  | wait =>
    rw [exec_scan_of_quiescent (quiescent_iff.2 (.inr hc))] at h
    cases h
    rw [headCondition_of_wait hc]
    exact ⟨rfl, rfl⟩
  | resync =>
    rw [exec_scan_of_resync hc] at h
    cases h
    rw [headCondition_of_resync hc]
    exact ⟨rfl, rfl⟩
  | extract =>
    rw [exec_scan_of_extract hc] at h
    cases h
    obtain ⟨hlen, _, _⟩ := scanCase_eq_extract.1 hc
    rw [headCondition_of_extract hc, extractHead_ev, extractHead_buf]
    cases hev : frameEvent (s.buf.take (frameTotal s.buf)) with
    | signal x => cases x <;> exact ⟨rfl, rfl⟩
    | record r =>
      rw [eq_decodeHi91_of_frameEvent hev]
      exact ⟨fun hshort => absurd hshort hlen.not_gt, fun _ => ⟨rfl, rfl⟩⟩

/-- Settles O60: the host's operations answer where no FEED is running, and every step that answers keeps the invariant. -/
theorem stepNeverStopsUnderContract : Obligations.StepNeverStopsUnderContract := by
  intro s hinv hs
  obtain ⟨t, hstep, ht⟩ := step_of_hostContract hs
  exact ⟨t, hstep, stepKeepsInv s t hinv hstep, ht⟩

end Sys2Proof.Proofs
end

section
/-! SUPPORT. The statements of 70_reset_and_hazards.md, settled. -/

namespace Sys2Proof.Proofs

open Machine

/-- Settles O2: RESET's one guard is `whenQuiescent`, which passes where no FEED is running. -/
theorem resetEmptiesBuffer : Obligations.ResetEmptiesBuffer :=
  fun _ hidle => whenQuiescent_of hidle

end Sys2Proof.Proofs
end
